-- ==== Sys2Proof/Word.lean ====
section
/-! DEFINITION. The value types of the DW128 core (00_scope.md R3, R8, R10): nothing but names for
bit vectors of the widths the spec fixes. Their operations stand in Machine/Operands.lean. -/

namespace Sys2Proof

/-- A 128-bit value, `XLEN = 128` (R8): one DoubleWord {hi, lo} (10_state.md R22). -/
abbrev Word := BitVec 128

/-- A 64-bit half-word, `HW = 64` (R8); also the width of the data bus. -/
abbrev Half := BitVec 64

/-- An 8-bit character code of the text buffer (R17), or an IMM8 field (30_encoding.md R50). -/
abbrev Byte := BitVec 8

/-- A command word CMD (30_encoding.md R50). -/
abbrev CmdWord := BitVec 32

/-- A general register number 0..15, `NREG = 16` (R8, 30_encoding.md R52). -/
abbrev Reg := Fin 16

end Sys2Proof
end

