-- ==== Sys2Proof/Syntax.lean ====
section
/-! DEFINITION. The commands of the DW128 core: one constructor per row of the opcode map
(30_encoding.md R56), with the operands its class gives it (R51). Operands are decoded here: register
numbers are `Reg`, and CVT's selector is taken apart (R54). DATA_IN is not part of a command word: a
command that reads it takes it from the command port (R48, R55). -/

namespace Sys2Proof

/-- The target width code of CVT, `sel[1:0]` (R54): 8, 16, 32 or 64 bits. -/
inductive CvtWidth where
  | w8
  | w16
  | w32
  | w64
  deriving DecidableEq, Repr

/-- One command (R56). `rd`, `rd2` are destinations, `rs1`, `rs2` sources. -/
inductive Instr where
  -- control and construction (47_transfer_control.md)
  | nop
  | rdflags
  | ldlo (rd : Reg)
  | ldhi (rd : Reg)
  | ldu (rd : Reg)
  | lds (rd : Reg)
  | ldus (rd : Reg)
  | ldbit (rd : Reg)
  | rdlo (rs1 : Reg)
  | rdhi (rs1 : Reg)
  | word (rs1 : Reg) (index : Byte)
  | cvt (rs1 : Reg) (width : CvtWidth) (tgtSigned srcSigned : Bool)
  -- multi-precision adder and subtractor (41_addsub.md)
  | addw (rd rs1 rs2 : Reg)
  | addu (rd rs1 rs2 : Reg)
  | adds (rd rs1 rs2 : Reg)
  | adduo (rd rs1 rs2 : Reg)
  | addso (rd rs1 rs2 : Reg)
  | subw (rd rs1 rs2 : Reg)
  | subu (rd rs1 rs2 : Reg)
  | subs (rd rs1 rs2 : Reg)
  | subuo (rd rs1 rs2 : Reg)
  | subso (rd rs1 rs2 : Reg)
  -- multiplier (43_multiply.md)
  | mulw (rd rs1 rs2 : Reg)
  | mulu (rd rs1 rs2 : Reg)
  | muls (rd rs1 rs2 : Reg)
  | muluo (rd rs1 rs2 : Reg)
  | mulso (rd rs1 rs2 : Reg)
  | muluf (rd rd2 rs1 rs2 : Reg)
  | mulsf (rd rd2 rs1 rs2 : Reg)
  -- long-division engine (44_divide.md)
  | divu (rd rd2 rs1 rs2 : Reg)
  | divs (rd rd2 rs1 rs2 : Reg)
  | divuo (rd rd2 rs1 rs2 : Reg)
  | divso (rd rd2 rs1 rs2 : Reg)
  | divfw
  -- sign bridge (42_sign_bridge.md)
  | neg (rd rs1 : Reg)
  | mag (rd rs1 : Reg)
  -- bitwise, shift and compare (45_logic_shift_compare.md)
  | and (rd rs1 rs2 : Reg)
  | or (rd rs1 rs2 : Reg)
  | xor (rd rs1 rs2 : Reg)
  | not (rd rs1 : Reg)
  | sll (rd rs1 rs2 : Reg)
  | srl (rd rs1 rs2 : Reg)
  | sra (rd rs1 rs2 : Reg)
  | sllm (rd rs1 rs2 : Reg)
  | srlm (rd rs1 rs2 : Reg)
  | sram (rd rs1 rs2 : Reg)
  | cmpu (rs1 rs2 : Reg)
  | cmps (rs1 rs2 : Reg)
  -- text codec (46_text_codec.md)
  | twr (addr : Byte)
  | trd (addr : Byte)
  | tsetlen
  | tgetlen
  | parseu (rd : Reg) (radix : Byte)
  | parses (rd : Reg) (radix : Byte)
  | fmtu (rs1 : Reg) (radix : Byte)
  | fmts (rs1 : Reg) (radix : Byte)
  deriving DecidableEq, Repr

namespace Instr

/-- The mnemonic of a command, as R56 spells it. -/
def mnemonic : Instr → String
  | .nop => "NOP"
  | .rdflags => "RDFLAGS"
  | .ldlo _ => "LDLO"
  | .ldhi _ => "LDHI"
  | .ldu _ => "LDU"
  | .lds _ => "LDS"
  | .ldus _ => "LDUS"
  | .ldbit _ => "LDBIT"
  | .rdlo _ => "RDLO"
  | .rdhi _ => "RDHI"
  | .word _ _ => "WORD"
  | .cvt _ _ _ _ => "CVT"
  | .addw _ _ _ => "ADDW"
  | .addu _ _ _ => "ADDU"
  | .adds _ _ _ => "ADDS"
  | .adduo _ _ _ => "ADDUO"
  | .addso _ _ _ => "ADDSO"
  | .subw _ _ _ => "SUBW"
  | .subu _ _ _ => "SUBU"
  | .subs _ _ _ => "SUBS"
  | .subuo _ _ _ => "SUBUO"
  | .subso _ _ _ => "SUBSO"
  | .mulw _ _ _ => "MULW"
  | .mulu _ _ _ => "MULU"
  | .muls _ _ _ => "MULS"
  | .muluo _ _ _ => "MULUO"
  | .mulso _ _ _ => "MULSO"
  | .muluf _ _ _ _ => "MULUF"
  | .mulsf _ _ _ _ => "MULSF"
  | .divu _ _ _ _ => "DIVU"
  | .divs _ _ _ _ => "DIVS"
  | .divuo _ _ _ _ => "DIVUO"
  | .divso _ _ _ _ => "DIVSO"
  | .divfw => "DIVFW"
  | .neg _ _ => "NEG"
  | .mag _ _ => "MAG"
  | .and _ _ _ => "AND"
  | .or _ _ _ => "OR"
  | .xor _ _ _ => "XOR"
  | .not _ _ => "NOT"
  | .sll _ _ _ => "SLL"
  | .srl _ _ _ => "SRL"
  | .sra _ _ _ => "SRA"
  | .sllm _ _ _ => "SLLM"
  | .srlm _ _ _ => "SRLM"
  | .sram _ _ _ => "SRAM"
  | .cmpu _ _ => "CMPU"
  | .cmps _ _ => "CMPS"
  | .twr _ => "TWR"
  | .trd _ => "TRD"
  | .tsetlen => "TSETLEN"
  | .tgetlen => "TGETLEN"
  | .parseu _ _ => "PARSEU"
  | .parses _ _ => "PARSES"
  | .fmtu _ _ => "FMTU"
  | .fmts _ _ => "FMTS"

/-- The general registers a command's rule may write: RD, and RD2 for the six commands with two
results (10_state.md R25, R26). A 0 among them discards (R28). -/
def dests : Instr → List Reg
  | .ldlo rd | .ldhi rd | .ldu rd | .lds rd | .ldus rd | .ldbit rd => [rd]
  | .addw rd _ _ | .addu rd _ _ | .adds rd _ _ | .adduo rd _ _ | .addso rd _ _ => [rd]
  | .subw rd _ _ | .subu rd _ _ | .subs rd _ _ | .subuo rd _ _ | .subso rd _ _ => [rd]
  | .mulw rd _ _ | .mulu rd _ _ | .muls rd _ _ | .muluo rd _ _ | .mulso rd _ _ => [rd]
  | .muluf rd rd2 _ _ | .mulsf rd rd2 _ _ => [rd, rd2]
  | .divu rd rd2 _ _ | .divs rd rd2 _ _ | .divuo rd rd2 _ _ | .divso rd rd2 _ _ => [rd, rd2]
  | .neg rd _ | .mag rd _ => [rd]
  | .and rd _ _ | .or rd _ _ | .xor rd _ _ | .not rd _ => [rd]
  | .sll rd _ _ | .srl rd _ _ | .sra rd _ _ | .sllm rd _ _ | .srlm rd _ _ | .sram rd _ _ => [rd]
  | .parseu rd _ | .parses rd _ => [rd]
  | .nop | .rdflags | .rdlo _ | .rdhi _ | .word _ _ | .cvt _ _ _ _ | .divfw => []
  | .cmpu _ _ | .cmps _ _ => []
  | .twr _ | .trd _ | .tsetlen | .tgetlen | .fmtu _ _ | .fmts _ _ => []

end Instr

end Sys2Proof
end

