-- ==== Sys2Proof/WellFormed.lean ====
section
/-! DEFINITION. Which commands have a word: the one check beyond the operands' types is that a DEST
command does not name one non-zero register twice (10_state.md R26, 30_encoding.md R57). -/

namespace Sys2Proof

/-- Two destination fields may be named together: not "equal and non-zero" (10_state.md R26; both
zero is legal and discards both results). -/
def destsOk (rd rd2 : Reg) : Bool := rd == 0 || rd != rd2

/-- A command that some command word stands for. Only the six DEST commands have a check (R57). -/
def Instr.wf : Instr → Bool
  | .muluf rd rd2 _ _ => destsOk rd rd2
  | .mulsf rd rd2 _ _ => destsOk rd rd2
  | .divu rd rd2 _ _ => destsOk rd rd2
  | .divs rd rd2 _ _ => destsOk rd rd2
  | .divuo rd rd2 _ _ => destsOk rd rd2
  | .divso rd rd2 _ _ => destsOk rd rd2
  | .nop | .rdflags | .ldlo _ | .ldhi _ | .ldu _ | .lds _ | .ldus _ | .ldbit _ => true
  | .rdlo _ | .rdhi _ | .word _ _ | .cvt _ _ _ _ => true
  | .addw _ _ _ | .addu _ _ _ | .adds _ _ _ | .adduo _ _ _ | .addso _ _ _ => true
  | .subw _ _ _ | .subu _ _ _ | .subs _ _ _ | .subuo _ _ _ | .subso _ _ _ => true
  | .mulw _ _ _ | .mulu _ _ _ | .muls _ _ _ | .muluo _ _ _ | .mulso _ _ _ => true
  | .divfw | .neg _ _ | .mag _ _ => true
  | .and _ _ _ | .or _ _ _ | .xor _ _ _ | .not _ _ => true
  | .sll _ _ _ | .srl _ _ _ | .sra _ _ _ | .sllm _ _ _ | .srlm _ _ _ | .sram _ _ _ => true
  | .cmpu _ _ | .cmps _ _ => true
  | .twr _ | .trd _ | .tsetlen | .tgetlen => true
  | .parseu _ _ | .parses _ _ | .fmtu _ _ | .fmts _ _ => true

end Sys2Proof
end

