-- ==== Sys2Proof/Decode.lean ====
section
/-! DEFINITION. Decoding a command word (30_encoding.md R50 to R58), total on every 32-bit word and
rejecting by name; the encoder written from the same layout; and the opcode map of R56 transcribed row
by row as masks and matches, which the decoder is stated to agree with. -/

namespace Sys2Proof

/-! ## The single word layout (R50) -/

/-- OPC, bits 31:24. -/
def opcField (w : CmdWord) : BitVec 8 := w.extractLsb' 24 8

/-- RD, bits 23:20, an unsigned register number (R52). -/
def rdField (w : CmdWord) : Reg := (w.extractLsb' 20 4).toFin

/-- RD2, bits 19:16. -/
def rd2Field (w : CmdWord) : Reg := (w.extractLsb' 16 4).toFin

/-- RS1, bits 15:12. -/
def rs1Field (w : CmdWord) : Reg := (w.extractLsb' 12 4).toFin

/-- RS2, bits 11:8. -/
def rs2Field (w : CmdWord) : Reg := (w.extractLsb' 8 4).toFin

/-- IMM8, bits 7:0. -/
def immField (w : CmdWord) : Byte := w.extractLsb' 0 8

/-- The word with the given fields (R50). -/
def pack (opc : BitVec 8) (rd rd2 rs1 rs2 : Reg) (imm : Byte) : CmdWord :=
  opc ++ BitVec.ofNat 4 rd.val ++ BitVec.ofNat 4 rd2.val ++ BitVec.ofNat 4 rs1.val ++
    BitVec.ofNat 4 rs2.val ++ imm

/-! ## CVT's selector (R54) -/

/-- `sel[1:0]`: 0 is 8 bits, 1 is 16, 2 is 32, 3 is 64. -/
def cvtWidthOf (code : BitVec 2) : CvtWidth :=
  match code with
  | 0#2 => .w8
  | 1#2 => .w16
  | 2#2 => .w32
  | 3#2 => .w64

/-- The code `sel[1:0]` of a width. -/
def CvtWidth.code : CvtWidth → BitVec 2
  | .w8 => 0#2
  | .w16 => 1#2
  | .w32 => 2#2
  | .w64 => 3#2

/-- IMM8 of a CVT: bits 7:4 zero, bit 3 source signed, bit 2 target signed, bits 1:0 the width. -/
def cvtImm (w : CvtWidth) (ts ss : Bool) : Byte :=
  0#4 ++ BitVec.ofBool ss ++ BitVec.ofBool ts ++ w.code

/-! ## Operand-usage classes (R51): the unused fields are must-be-zero -/

/-- Why a word stands for no command (R57, R58). All three raise ILLEGAL_COMMAND. -/
inductive Reject where
  /-- the opcode byte is in no row of R56 -/
  | unassignedOpcode
  /-- an assigned opcode with a 1 in a must-be-zero bit -/
  | mustBeZero
  /-- a DEST command with RD = RD2 and not 0 -/
  | sameDestinations
  deriving DecidableEq, Repr

/-- Accept `i` where the class's unused fields are zero. -/
def requireZero (unused : Bool) (i : Instr) : Except Reject Instr :=
  if unused then .ok i else .error .mustBeZero

/-- Class Z: no field used. -/
def formZ (w : CmdWord) (i : Instr) : Except Reject Instr :=
  requireZero (rdField w == 0 && rd2Field w == 0 && rs1Field w == 0 && rs2Field w == 0
    && immField w == 0#8) i

/-- Class D: RD. -/
def formD (w : CmdWord) (f : Reg → Instr) : Except Reject Instr :=
  requireZero (rd2Field w == 0 && rs1Field w == 0 && rs2Field w == 0 && immField w == 0#8)
    (f (rdField w))

/-- Class S: RS1. -/
def formS (w : CmdWord) (f : Reg → Instr) : Except Reject Instr :=
  requireZero (rdField w == 0 && rd2Field w == 0 && rs2Field w == 0 && immField w == 0#8)
    (f (rs1Field w))

/-- Class SI: RS1 and IMM8. -/
def formSI (w : CmdWord) (f : Reg → Byte → Instr) : Except Reject Instr :=
  requireZero (rdField w == 0 && rd2Field w == 0 && rs2Field w == 0) (f (rs1Field w) (immField w))

/-- Class SC: RS1 and IMM8[3:0], the CVT selector (R54). -/
def formSC (w : CmdWord) (f : Reg → CvtWidth → Bool → Bool → Instr) : Except Reject Instr :=
  requireZero (rdField w == 0 && rd2Field w == 0 && rs2Field w == 0
      && (immField w).extractLsb' 4 4 == 0#4)
    (f (rs1Field w) (cvtWidthOf ((immField w).extractLsb' 0 2)) ((immField w).getLsbD 2)
      ((immField w).getLsbD 3))

/-- Class DI: RD and IMM8. -/
def formDI (w : CmdWord) (f : Reg → Byte → Instr) : Except Reject Instr :=
  requireZero (rd2Field w == 0 && rs1Field w == 0 && rs2Field w == 0) (f (rdField w) (immField w))

/-- Class I: IMM8. -/
def formI (w : CmdWord) (f : Byte → Instr) : Except Reject Instr :=
  requireZero (rdField w == 0 && rd2Field w == 0 && rs1Field w == 0 && rs2Field w == 0)
    (f (immField w))

/-- Class DS: RD and RS1. -/
def formDS (w : CmdWord) (f : Reg → Reg → Instr) : Except Reject Instr :=
  requireZero (rd2Field w == 0 && rs2Field w == 0 && immField w == 0#8)
    (f (rdField w) (rs1Field w))

/-- Class DST: RD, RS1 and RS2. -/
def formDST (w : CmdWord) (f : Reg → Reg → Reg → Instr) : Except Reject Instr :=
  requireZero (rd2Field w == 0 && immField w == 0#8) (f (rdField w) (rs1Field w) (rs2Field w))

/-- Class DEST: RD, RD2, RS1 and RS2; RD = RD2 and not 0 is illegal (10_state.md R26). -/
def formDEST (w : CmdWord) (f : Reg → Reg → Reg → Reg → Instr) : Except Reject Instr :=
  if immField w == 0#8 then
    if destsOk (rdField w) (rd2Field w) then
      .ok (f (rdField w) (rd2Field w) (rs1Field w) (rs2Field w))
    else .error .sameDestinations
  else .error .mustBeZero

/-- Class ST: RS1 and RS2. -/
def formST (w : CmdWord) (f : Reg → Reg → Instr) : Except Reject Instr :=
  requireZero (rdField w == 0 && rd2Field w == 0 && immField w == 0#8)
    (f (rs1Field w) (rs2Field w))

/-! ## The decoder (R57) -/

/-- The command a word stands for, or why it stands for none (R57). Class X (DIVFW) ignores bits
23:0 (R58, 44_divide.md R102; log 13). -/
def decode (w : CmdWord) : Except Reject Instr :=
  match opcField w with
  | 0x00#8 => formZ w .nop
  | 0x01#8 => formZ w .rdflags
  | 0x10#8 => formD w .ldlo
  | 0x11#8 => formD w .ldhi
  | 0x12#8 => formD w .ldu
  | 0x13#8 => formD w .lds
  | 0x14#8 => formD w .ldus
  | 0x15#8 => formD w .ldbit
  | 0x16#8 => formS w .rdlo
  | 0x17#8 => formS w .rdhi
  | 0x18#8 => formSI w .word
  | 0x19#8 => formSC w .cvt
  | 0x20#8 => formDST w .addw
  | 0x21#8 => formDST w .addu
  | 0x22#8 => formDST w .adds
  | 0x23#8 => formDST w .adduo
  | 0x24#8 => formDST w .addso
  | 0x28#8 => formDST w .subw
  | 0x29#8 => formDST w .subu
  | 0x2A#8 => formDST w .subs
  | 0x2B#8 => formDST w .subuo
  | 0x2C#8 => formDST w .subso
  | 0x30#8 => formDST w .mulw
  | 0x31#8 => formDST w .mulu
  | 0x32#8 => formDST w .muls
  | 0x33#8 => formDST w .muluo
  | 0x34#8 => formDST w .mulso
  | 0x35#8 => formDEST w .muluf
  | 0x36#8 => formDEST w .mulsf
  | 0x40#8 => formDEST w .divu
  | 0x41#8 => formDEST w .divs
  | 0x42#8 => formDEST w .divuo
  | 0x43#8 => formDEST w .divso
  | 0x44#8 => .ok .divfw
  | 0x48#8 => formDS w .neg
  | 0x49#8 => formDS w .mag
  | 0x50#8 => formDST w .and
  | 0x51#8 => formDST w .or
  | 0x52#8 => formDST w .xor
  | 0x53#8 => formDS w .not
  | 0x58#8 => formDST w .sll
  | 0x59#8 => formDST w .srl
  | 0x5A#8 => formDST w .sra
  | 0x5C#8 => formDST w .sllm
  | 0x5D#8 => formDST w .srlm
  | 0x5E#8 => formDST w .sram
  | 0x60#8 => formST w .cmpu
  | 0x61#8 => formST w .cmps
  | 0x70#8 => formI w .twr
  | 0x71#8 => formI w .trd
  | 0x72#8 => formZ w .tsetlen
  | 0x73#8 => formZ w .tgetlen
  | 0x74#8 => formDI w .parseu
  | 0x75#8 => formDI w .parses
  | 0x76#8 => formSI w .fmtu
  | 0x77#8 => formSI w .fmts
  | _ => .error .unassignedOpcode

/-! ## The encoder -/

/-- The word of a command (R50, R51, R56). DIVFW's ignored bits are written as zero. -/
def encode : Instr → CmdWord
  | .nop => pack 0x00#8 0 0 0 0 0#8
  | .rdflags => pack 0x01#8 0 0 0 0 0#8
  | .ldlo rd => pack 0x10#8 rd 0 0 0 0#8
  | .ldhi rd => pack 0x11#8 rd 0 0 0 0#8
  | .ldu rd => pack 0x12#8 rd 0 0 0 0#8
  | .lds rd => pack 0x13#8 rd 0 0 0 0#8
  | .ldus rd => pack 0x14#8 rd 0 0 0 0#8
  | .ldbit rd => pack 0x15#8 rd 0 0 0 0#8
  | .rdlo rs1 => pack 0x16#8 0 0 rs1 0 0#8
  | .rdhi rs1 => pack 0x17#8 0 0 rs1 0 0#8
  | .word rs1 imm => pack 0x18#8 0 0 rs1 0 imm
  | .cvt rs1 w ts ss => pack 0x19#8 0 0 rs1 0 (cvtImm w ts ss)
  | .addw rd rs1 rs2 => pack 0x20#8 rd 0 rs1 rs2 0#8
  | .addu rd rs1 rs2 => pack 0x21#8 rd 0 rs1 rs2 0#8
  | .adds rd rs1 rs2 => pack 0x22#8 rd 0 rs1 rs2 0#8
  | .adduo rd rs1 rs2 => pack 0x23#8 rd 0 rs1 rs2 0#8
  | .addso rd rs1 rs2 => pack 0x24#8 rd 0 rs1 rs2 0#8
  | .subw rd rs1 rs2 => pack 0x28#8 rd 0 rs1 rs2 0#8
  | .subu rd rs1 rs2 => pack 0x29#8 rd 0 rs1 rs2 0#8
  | .subs rd rs1 rs2 => pack 0x2A#8 rd 0 rs1 rs2 0#8
  | .subuo rd rs1 rs2 => pack 0x2B#8 rd 0 rs1 rs2 0#8
  | .subso rd rs1 rs2 => pack 0x2C#8 rd 0 rs1 rs2 0#8
  | .mulw rd rs1 rs2 => pack 0x30#8 rd 0 rs1 rs2 0#8
  | .mulu rd rs1 rs2 => pack 0x31#8 rd 0 rs1 rs2 0#8
  | .muls rd rs1 rs2 => pack 0x32#8 rd 0 rs1 rs2 0#8
  | .muluo rd rs1 rs2 => pack 0x33#8 rd 0 rs1 rs2 0#8
  | .mulso rd rs1 rs2 => pack 0x34#8 rd 0 rs1 rs2 0#8
  | .muluf rd rd2 rs1 rs2 => pack 0x35#8 rd rd2 rs1 rs2 0#8
  | .mulsf rd rd2 rs1 rs2 => pack 0x36#8 rd rd2 rs1 rs2 0#8
  | .divu rd rd2 rs1 rs2 => pack 0x40#8 rd rd2 rs1 rs2 0#8
  | .divs rd rd2 rs1 rs2 => pack 0x41#8 rd rd2 rs1 rs2 0#8
  | .divuo rd rd2 rs1 rs2 => pack 0x42#8 rd rd2 rs1 rs2 0#8
  | .divso rd rd2 rs1 rs2 => pack 0x43#8 rd rd2 rs1 rs2 0#8
  | .divfw => pack 0x44#8 0 0 0 0 0#8
  | .neg rd rs1 => pack 0x48#8 rd 0 rs1 0 0#8
  | .mag rd rs1 => pack 0x49#8 rd 0 rs1 0 0#8
  | .and rd rs1 rs2 => pack 0x50#8 rd 0 rs1 rs2 0#8
  | .or rd rs1 rs2 => pack 0x51#8 rd 0 rs1 rs2 0#8
  | .xor rd rs1 rs2 => pack 0x52#8 rd 0 rs1 rs2 0#8
  | .not rd rs1 => pack 0x53#8 rd 0 rs1 0 0#8
  | .sll rd rs1 rs2 => pack 0x58#8 rd 0 rs1 rs2 0#8
  | .srl rd rs1 rs2 => pack 0x59#8 rd 0 rs1 rs2 0#8
  | .sra rd rs1 rs2 => pack 0x5A#8 rd 0 rs1 rs2 0#8
  | .sllm rd rs1 rs2 => pack 0x5C#8 rd 0 rs1 rs2 0#8
  | .srlm rd rs1 rs2 => pack 0x5D#8 rd 0 rs1 rs2 0#8
  | .sram rd rs1 rs2 => pack 0x5E#8 rd 0 rs1 rs2 0#8
  | .cmpu rs1 rs2 => pack 0x60#8 0 0 rs1 rs2 0#8
  | .cmps rs1 rs2 => pack 0x61#8 0 0 rs1 rs2 0#8
  | .twr imm => pack 0x70#8 0 0 0 0 imm
  | .trd imm => pack 0x71#8 0 0 0 0 imm
  | .tsetlen => pack 0x72#8 0 0 0 0 0#8
  | .tgetlen => pack 0x73#8 0 0 0 0 0#8
  | .parseu rd imm => pack 0x74#8 rd 0 0 0 imm
  | .parses rd imm => pack 0x75#8 rd 0 0 0 imm
  | .fmtu rs1 imm => pack 0x76#8 0 0 rs1 0 imm
  | .fmts rs1 imm => pack 0x77#8 0 0 rs1 0 imm

/-! ## The opcode map (R56), row by row -/

/-- One row of R56: a word `w` selects it iff `(w and mask) = match`. `dest` marks class DEST. -/
structure Row where
  mnemonic : String
  pattern : CmdWord
  mask : CmdWord
  dest : Bool
  deriving DecidableEq, Repr

/-- "a word `w` selects the row iff `(w and mask) = match`" (R56). -/
def Row.selects (r : Row) (w : CmdWord) : Bool := w &&& r.mask == r.pattern

/-- R56, the rows of 47_transfer_control.md. -/
def transferRows : List Row :=
  [⟨"NOP", 0x00000000#32, 0xFFFFFFFF#32, false⟩,
   ⟨"RDFLAGS", 0x01000000#32, 0xFFFFFFFF#32, false⟩,
   ⟨"LDLO", 0x10000000#32, 0xFF0FFFFF#32, false⟩,
   ⟨"LDHI", 0x11000000#32, 0xFF0FFFFF#32, false⟩,
   ⟨"LDU", 0x12000000#32, 0xFF0FFFFF#32, false⟩,
   ⟨"LDS", 0x13000000#32, 0xFF0FFFFF#32, false⟩,
   ⟨"LDUS", 0x14000000#32, 0xFF0FFFFF#32, false⟩,
   ⟨"LDBIT", 0x15000000#32, 0xFF0FFFFF#32, false⟩,
   ⟨"RDLO", 0x16000000#32, 0xFFFF0FFF#32, false⟩,
   ⟨"RDHI", 0x17000000#32, 0xFFFF0FFF#32, false⟩,
   ⟨"WORD", 0x18000000#32, 0xFFFF0F00#32, false⟩,
   ⟨"CVT", 0x19000000#32, 0xFFFF0FF0#32, false⟩]

/-- R56, the rows of 41_addsub.md. -/
def addSubRows : List Row :=
  [⟨"ADDW", 0x20000000#32, 0xFF0F00FF#32, false⟩,
   ⟨"ADDU", 0x21000000#32, 0xFF0F00FF#32, false⟩,
   ⟨"ADDS", 0x22000000#32, 0xFF0F00FF#32, false⟩,
   ⟨"ADDUO", 0x23000000#32, 0xFF0F00FF#32, false⟩,
   ⟨"ADDSO", 0x24000000#32, 0xFF0F00FF#32, false⟩,
   ⟨"SUBW", 0x28000000#32, 0xFF0F00FF#32, false⟩,
   ⟨"SUBU", 0x29000000#32, 0xFF0F00FF#32, false⟩,
   ⟨"SUBS", 0x2A000000#32, 0xFF0F00FF#32, false⟩,
   ⟨"SUBUO", 0x2B000000#32, 0xFF0F00FF#32, false⟩,
   ⟨"SUBSO", 0x2C000000#32, 0xFF0F00FF#32, false⟩]

/-- R56, the rows of 43_multiply.md. -/
def multiplyRows : List Row :=
  [⟨"MULW", 0x30000000#32, 0xFF0F00FF#32, false⟩,
   ⟨"MULU", 0x31000000#32, 0xFF0F00FF#32, false⟩,
   ⟨"MULS", 0x32000000#32, 0xFF0F00FF#32, false⟩,
   ⟨"MULUO", 0x33000000#32, 0xFF0F00FF#32, false⟩,
   ⟨"MULSO", 0x34000000#32, 0xFF0F00FF#32, false⟩,
   ⟨"MULUF", 0x35000000#32, 0xFF0000FF#32, true⟩,
   ⟨"MULSF", 0x36000000#32, 0xFF0000FF#32, true⟩]

/-- R56, the rows of 44_divide.md. -/
def divideRows : List Row :=
  [⟨"DIVU", 0x40000000#32, 0xFF0000FF#32, true⟩,
   ⟨"DIVS", 0x41000000#32, 0xFF0000FF#32, true⟩,
   ⟨"DIVUO", 0x42000000#32, 0xFF0000FF#32, true⟩,
   ⟨"DIVSO", 0x43000000#32, 0xFF0000FF#32, true⟩,
   ⟨"DIVFW", 0x44000000#32, 0xFF000000#32, false⟩]

/-- R56, the rows of 42_sign_bridge.md. -/
def signRows : List Row :=
  [⟨"NEG", 0x48000000#32, 0xFF0F0FFF#32, false⟩,
   ⟨"MAG", 0x49000000#32, 0xFF0F0FFF#32, false⟩]

/-- R56, the rows of 45_logic_shift_compare.md. -/
def logicRows : List Row :=
  [⟨"AND", 0x50000000#32, 0xFF0F00FF#32, false⟩,
   ⟨"OR", 0x51000000#32, 0xFF0F00FF#32, false⟩,
   ⟨"XOR", 0x52000000#32, 0xFF0F00FF#32, false⟩,
   ⟨"NOT", 0x53000000#32, 0xFF0F0FFF#32, false⟩,
   ⟨"SLL", 0x58000000#32, 0xFF0F00FF#32, false⟩,
   ⟨"SRL", 0x59000000#32, 0xFF0F00FF#32, false⟩,
   ⟨"SRA", 0x5A000000#32, 0xFF0F00FF#32, false⟩,
   ⟨"SLLM", 0x5C000000#32, 0xFF0F00FF#32, false⟩,
   ⟨"SRLM", 0x5D000000#32, 0xFF0F00FF#32, false⟩,
   ⟨"SRAM", 0x5E000000#32, 0xFF0F00FF#32, false⟩,
   ⟨"CMPU", 0x60000000#32, 0xFFFF00FF#32, false⟩,
   ⟨"CMPS", 0x61000000#32, 0xFFFF00FF#32, false⟩]

/-- R56, the rows of 46_text_codec.md. -/
def textRows : List Row :=
  [⟨"TWR", 0x70000000#32, 0xFFFFFF00#32, false⟩,
   ⟨"TRD", 0x71000000#32, 0xFFFFFF00#32, false⟩,
   ⟨"TSETLEN", 0x72000000#32, 0xFFFFFFFF#32, false⟩,
   ⟨"TGETLEN", 0x73000000#32, 0xFFFFFFFF#32, false⟩,
   ⟨"PARSEU", 0x74000000#32, 0xFF0FFF00#32, false⟩,
   ⟨"PARSES", 0x75000000#32, 0xFF0FFF00#32, false⟩,
   ⟨"FMTU", 0x76000000#32, 0xFFFF0F00#32, false⟩,
   ⟨"FMTS", 0x77000000#32, 0xFFFF0F00#32, false⟩]

/-- The complete opcode map (R56): 56 rows. -/
def opcodeMap : List Row :=
  transferRows ++ addSubRows ++ multiplyRows ++ divideRows ++ signRows ++ logicRows ++ textRows

/-! ## The opcode table's words -/

/-- The command the decoder reads from the table word `w` of `nbits` bits (log 14): the command word
is its low 32 bits, bits above `nbits` being 0. -/
def decodeTableWord (nbits w : Nat) : Option Instr :=
  (decode (BitVec.ofNat 32 (w % 2 ^ nbits))).toOption

end Sys2Proof
end

