-- ==== Sys2Proof/Config.lean ====
section
/-! DEFINITION. What is fixed for one machine: the parameters of 00_scope.md R8 and R9, and the one
free value of the spec (20_memory.md R38). -/

namespace Sys2Proof

/-- The parameter NATIVE_WIDTH in {32, 64} (00_scope.md R9, 92_eei_decisions.md D27). A machine's
value stands in `Machine.State.nativeWidth` (log 6). -/
inductive NativeWidth where
  | w32
  | w64
  deriving DecidableEq, Repr

/-- The default value of NATIVE_WIDTH (R9). -/
def Config.defaultNativeWidth : NativeWidth := .w64

/-- `TXTSZ = 256` bytes (R8): the number of addresses of TXT. -/
def Config.txtSize : Nat := 256

/-- The least legal radix, "`2 <= radix <= 36`" (R8). -/
def Config.minRadix : Nat := 2

/-- The greatest legal radix (R8). -/
def Config.maxRadix : Nat := 36

/-- FREE VALUE (log 5): what a TXT byte not written since reset reads as, "a free draw (any 8-bit
value, possibly different in each run)" (20_memory.md R38, 93_implementation_defined.md U1). The
first argument is the draw (`State.txtDraw`, moved on by reset), the second the address, so the byte
stays the same until the address is written. It has no body: no proof can see its value. -/
opaque Config.freeTxtByte : Nat → Nat → Byte

end Sys2Proof
end

