-- ==== Sys2Proof/Machine/State.lean ====
section
/-! DEFINITION. Everything the spec gives the machine (10_state.md R21), as plain data, with the
host's inputs beside it; the reset state (70_reset_and_hazards.md R159); and the reasons a step can
stop. -/

namespace Sys2Proof.Machine

/-- FLAGS (10_state.md R29): bit 0 O, bit 1 LT, bit 2 EQ, bit 3 A. Bits 7:4 are reserved and read as
zero, so they have no storage (log 8). -/
structure Flags where
  /-- overflow, carry-out, borrow-out or division fault of the last reporting command -/
  o : Bool
  /-- the last compare found rs1 < rs2 -/
  lt : Bool
  /-- the last compare found rs1 = rs2 -/
  eq : Bool
  /-- the last parse or conversion returned absent -/
  a : Bool
  deriving DecidableEq, Repr

/-- The fault causes of 60_exceptions.md R149; codes 9 to 15 are never held. -/
inductive Cause where
  | none
  | illegalCommand
  | overflow
  | divByZero
  | unsupported
  | badRadix
  | badBitIndex
  | negativeToUnsigned
  | indexRange
  deriving DecidableEq, Repr

/-- STATUS (10_state.md R31). Its reserved bits read as zero and have no storage (log 8). -/
structure Status where
  /-- bit 0: set by fault entry, cleared only by reset -/
  faulted : Bool
  /-- bits 11:8: the cause of the first fault since reset -/
  cause : Cause
  /-- bits 63:32: the command word of the first faulting command since reset -/
  fcmd : CmdWord
  deriving DecidableEq, Repr

/-- One command at the command port: CMD with its DATA_IN, sampled together (30_encoding.md R48). -/
structure Command where
  word : CmdWord
  dataIn : Half
  deriving DecidableEq, Repr

/-- What the host does to the block next (30_encoding.md R48, R49): it presents a command, or it
asserts the reset input (log 1, log 4). -/
inductive Input where
  | command (c : Command)
  | reset
  deriving DecidableEq, Repr

/-- The bytes of TXT written since reset, as (address, byte) pairs with strictly rising addresses;
an unlisted address has not been written since reset (20_memory.md R37, R38; log 5). -/
abbrev Memory := List Host.Cell

/-- The state of the DW128 core: R21's complete architectural state (`xs` to `txt`), and three fields
of the model's own (`port`, `txtDraw`, `nativeWidth`). -/
structure State where
  /-- `x[1]` to `x[15]`, in that order (R22); `x[0]` is hardwired to zero and has no storage (R28,
  log 9) -/
  xs : Vector Word 15
  /-- FLAGS (R29) -/
  flags : Flags
  /-- STATUS (R31) -/
  status : Status
  /-- DATA_OUT (R32) -/
  dataOut : Half
  /-- TLEN, a 9-bit register holding 0 to 256 (R34) -/
  tlen : BitVec 9
  /-- TXT, the written bytes (20_memory.md R37) -/
  txt : Memory
  /-- the model's own: the host's inputs still to come, oldest first (log 1) -/
  port : List Input
  /-- the model's own: which free bytes unwritten TXT addresses read as (log 5) -/
  txtDraw : Nat
  /-- the parameter NATIVE_WIDTH (00_scope.md R9), which no step changes (log 6) -/
  nativeWidth : NativeWidth
  deriving DecidableEq, Repr

/-- Why the machine stops. -/
inductive Fault where
  /-- Raised by PARSEU and PARSES when TLEN exceeds 256, so that the text would run past TXT[255], an
  address that does not exist (20_memory.md R37, R42). No run reaches such a TLEN (10_state.md R34).
  Safe (log 10). -/
  | txtAddress
  deriving DecidableEq, Repr

/-- Why a command has no meaning here. -/
inductive Refusal where
  /-- Raised by an arm of `exec` whose command has no meaning yet. Safe. No arm raises it. -/
  | notModelled (mnemonic : String)
  deriving DecidableEq, Repr

/-- The reset state of R159, for a machine with the given NATIVE_WIDTH, draw of unspecified TXT bytes
and inputs to come. -/
def State.resetWith (nw : NativeWidth) (draw : Nat) (port : List Input) : State where
  xs := Vector.replicate 15 0#128
  flags := { o := false, lt := false, eq := false, a := false }
  status := { faulted := false, cause := .none, fcmd := 0#32 }
  dataOut := 0#64
  tlen := 0#9
  txt := []
  port := port
  txtDraw := draw
  nativeWidth := nw

/-- The machine right after reset (R159, R160), of the default NATIVE_WIDTH (R9; log 6), with draw 0
(log 5) and no input from the host yet (log 1). -/
def State.reset : State := State.resetWith Config.defaultNativeWidth 0 []

end Sys2Proof.Machine
end

