-- ==== Sys2Proof/Machine/Operands.lean ====
section
/-! DEFINITION. Values and their parts: halves, signed and unsigned readings, the counting functions
and the native half-word primitives of 00_scope.md R10 to R16, and the operand forms of a command. -/

namespace Sys2Proof.Machine

/-! ## Halves (R10, 10_state.md R22) -/

/-- `x.hi = x[127:64]`. -/
def hi (x : Word) : Half := x.extractLsb' 64 64

/-- `x.lo = x[63:0]`. -/
def lo (x : Word) : Half := x.extractLsb' 0 64

/-- `{h, l}`, the value `h·2⁶⁴ + l`. -/
def halves (h l : Half) : Word := h ++ l

/-! ## Named constants (R16) -/

/-- `ZERO = {0, 0}`. -/
def zero : Word := halves 0#64 0#64

/-- `UMAX = {2⁶⁴-1, 2⁶⁴-1}`. -/
def umax : Word := halves 0xFFFFFFFFFFFFFFFF#64 0xFFFFFFFFFFFFFFFF#64

/-- `SMIN = {2⁶³, 0}`. -/
def smin : Word := halves 0x8000000000000000#64 0#64

/-- `SMAX = {2⁶³-1, 2⁶⁴-1}`. -/
def smax : Word := halves 0x7FFFFFFFFFFFFFFF#64 0xFFFFFFFFFFFFFFFF#64

/-- `MINUS1 = UMAX` read as signed. -/
def minus1 : Word := umax

/-! ## Wrapping and extension (R12) -/

/-- `bits_128(n)` of a natural number. -/
def bits128 (n : Nat) : Word := BitVec.ofNat 128 n

/-- `bits_128(n)` of an integer: `n mod 2^128`. -/
def bits128i (n : Int) : Word := BitVec.ofInt 128 n

/-- `zext_128` of a half-word. -/
def zext128 (h : Half) : Word := halves 0#64 h

/-- `sext_128` of a half-word (R12). -/
def sext128 (h : Half) : Word := h.signExtend 128

/-! ## Counting functions (R13), used only on non-zero values (93_implementation_defined.md U15,
log 12) -/

/-- `lzc(v)`: "127 minus the index of the highest set bit". -/
def lzc (v : Word) : Nat := 127 - v.toNat.log2

/-- `tzc(v)`: "the index of the lowest set bit". -/
def tzc (v : Word) : Nat := ((List.range 128).find? v.getLsbD).getD 128

/-- `popcount(v)`: "the number of set bits". -/
def popcount (v : Word) : Nat := (List.range 128).countP v.getLsbD

/-! ## Native half-word primitives (R15) -/

/-- `addc64(p, q) = (bits_64(u(p)+u(q)), u(p)+u(q) >= 2^64)`. -/
def addc64 (p q : Half) : Half × Bool :=
  (BitVec.ofNat 64 (p.toNat + q.toNat), decide (2 ^ 64 ≤ p.toNat + q.toNat))

/-- `subb64(p, q) = (bits_64(u(p)-u(q)), u(p) < u(q))`. -/
def subb64 (p q : Half) : Half × Bool :=
  (BitVec.ofInt 64 ((p.toNat : Int) - q.toNat), decide (p.toNat < q.toNat))

/-- `mul64x64(p, q) = (high, low)` with `high ++ low = bits_128(u(p)·u(q))`. -/
def mul64x64 (p q : Half) : Half × Half :=
  let product := bits128 (p.toNat * q.toNat)
  (hi product, lo product)

/-- An integer outside the signed 64-bit range [-2^63, 2^63 - 1]. -/
def outside64 (n : Int) : Bool := decide (n < -2 ^ 63) || decide (2 ^ 63 - 1 < n)

/-- `sadd_ov64(p, q, c)`: `s(p) + s(q) + c` lies outside the signed 64-bit range. -/
def saddOv64 (p q : Half) (c : Bool) : Bool := outside64 (p.toInt + q.toInt + c.toInt)

/-- `ssub_ov64(p, q, c)`: `s(p) - s(q) - c` lies outside the signed 64-bit range. -/
def ssubOv64 (p q : Half) (c : Bool) : Bool := outside64 (p.toInt - q.toInt - c.toInt)

/-- `sra_64(v, k)`, the arithmetic right shift of a half-word (R12). -/
def sra64 (v : Half) (k : Nat) : Half := v.sshiftRight k

/-! ## CVT's target (30_encoding.md R54) -/

/-- The number of bits of a CVT target. -/
def cvtBits : CvtWidth → Nat
  | .w8 => 8
  | .w16 => 16
  | .w32 => 32
  | .w64 => 64

end Sys2Proof.Machine
end

