-- ==== Sys2Proof/Machine/Flags.lean ====
section
/-! DEFINITION. The registers FLAGS and STATUS as the bit vectors the host reads (10_state.md R29, R31),
the cause codes (60_exceptions.md R149), and which flag bits a command writes (R29). -/

namespace Sys2Proof.Machine

/-- FLAGS as its 8-bit register (R29): bits 7:4 zero, then A, EQ, LT, O. -/
def Flags.toBits (f : Flags) : BitVec 8 :=
  0#4 ++ BitVec.ofBool f.a ++ BitVec.ofBool f.eq ++ BitVec.ofBool f.lt ++ BitVec.ofBool f.o

/-- A reporting command writes O and no other flag (R29). -/
def Flags.withO (f : Flags) (o : Bool) : Flags := { f with o := o }

/-- A compare writes LT and EQ and no other flag (R29). -/
def Flags.withCompare (f : Flags) (lt eq : Bool) : Flags := { f with lt := lt, eq := eq }

/-- A parse or conversion writes A and no other flag (R29). -/
def Flags.withA (f : Flags) (a : Bool) : Flags := { f with a := a }

/-- The 4-bit code of a cause (60_exceptions.md R149). -/
def Cause.code : Cause → BitVec 4
  | .none => 0#4
  | .illegalCommand => 1#4
  | .overflow => 2#4
  | .divByZero => 3#4
  | .unsupported => 4#4
  | .badRadix => 5#4
  | .badBitIndex => 6#4
  | .negativeToUnsigned => 7#4
  | .indexRange => 8#4

/-- STATUS as its 64-bit register (10_state.md R31): FCMD, zeros, CAUSE, zeros, FAULTED. -/
def Status.toBits (s : Status) : BitVec 64 :=
  s.fcmd ++ 0#20 ++ s.cause.code ++ 0#7 ++ BitVec.ofBool s.faulted

end Sys2Proof.Machine
end

