-- ==== Sys2Proof/Machine/Ops.lean ====
section
/-! DEFINITION. The named operations over the state: general registers, the text buffer, the command
port, fault entry and reset. -/

namespace Sys2Proof.Machine

/-- What a command answers. -/
abbrev Result := Host.Outcome State Fault Refusal

/-! ## General registers (10_state.md R22, R28) -/

/-- The place of `x[r]`, `r` not 0, among the stored registers. -/
theorem slot_lt (r : Reg) (h : r ≠ 0) : r.val - 1 < 15 := by
  have hr := r.isLt
  have h0 : r.val ≠ 0 := fun e => h (Fin.ext e)
  omega

/-- `x[r]`: "a read of `x[0]` returns `ZERO`" (R28). -/
def State.reg (s : State) (r : Reg) : Word :=
  if h : r = 0 then 0#128 else s.xs[r.val - 1]'(slot_lt r h)

/-- `x[r] <- v`: "a write to `x[0]` is discarded without effect" (R28). -/
def State.setReg (s : State) (r : Reg) (v : Word) : State :=
  if h : r = 0 then s else { s with xs := s.xs.set (r.val - 1) v (slot_lt r h) }

/-! ## The text buffer TXT (20_memory.md R37, R38) -/

/-- The byte written last at an address since reset, if any was (R38). -/
def Memory.read? : Memory → Nat → Option Byte
  | [], _ => none
  | (k, b) :: rest, a => if a = k then some b else Memory.read? rest a

/-- The memory after writing `v` at `a`, its addresses still strictly rising (R38). -/
def Memory.write : Memory → Nat → Byte → Memory
  | [], a, v => [(a, v)]
  | (k, b) :: rest, a, v =>
    if a < k then (a, v) :: (k, b) :: rest
    else if a = k then (a, v) :: rest
    else (k, b) :: Memory.write rest a v

/-- Every address of the list is at least `low` and inside TXT, and addresses strictly rise. -/
def Memory.wfFrom : Nat → Memory → Bool
  | _, [] => true
  | low, (k, _) :: rest =>
    decide (low ≤ k) && decide (k < Config.txtSize) && Memory.wfFrom (k + 1) rest

/-- The canonical form: strictly rising addresses, all below `TXTSZ`. No entry can equal what an
unlisted address holds, which is no written byte at all (log 5). -/
def Memory.wf (m : Memory) : Bool := Memory.wfFrom 0 m

/-- `MemRead(a, 1)`: the byte last written, or the free draw (R38, log 5). -/
def State.readTxt (s : State) (a : Nat) : Byte :=
  (Memory.read? s.txt a).getD (Config.freeTxtByte s.txtDraw a)

/-- `MemWrite(a, 1, v)` (R38). -/
def State.writeTxt (s : State) (a : Nat) (v : Byte) : State :=
  { s with txt := Memory.write s.txt a v }

/-- The memory after writing the bytes of a text at `a`, `a + 1`, and so on (R41). -/
def Memory.writeText (m : Memory) : Nat → List Byte → Memory
  | _, [] => m
  | a, b :: rest => Memory.writeText (Memory.write m a b) (a + 1) rest

/-- `MemWrite(j, 1, out[j])` for every `j` (46_text_codec.md R123). -/
def State.writeTextAt0 (s : State) (text : List Byte) : State :=
  { s with txt := Memory.writeText s.txt 0 text }

/-- The text TXT[0 .. TLEN-1], first character first (10_state.md R34, R41). -/
def State.text (s : State) : List Byte := (List.range s.tlen.toNat).map s.readTxt

/-! ## Flags and the response register -/

/-- Replace FLAGS. -/
def State.setFlags (s : State) (f : Flags) : State := { s with flags := f }

/-- `DATA_OUT <- v` (10_state.md R32). -/
def State.setDataOut (s : State) (v : Half) : State := { s with dataOut := v }

/-- `TLEN <- n` (10_state.md R34). -/
def State.setTlen (s : State) (n : BitVec 9) : State := { s with tlen := n }

/-! ## The command port (30_encoding.md R48, R49) -/

/-- The command at the port. A step runs a command only with one there; with none the lines read as
zero, which nothing uses (log 3). -/
def State.presented (s : State) : Command :=
  match s.port with
  | .command c :: _ => c
  | .reset :: _ => { word := 0#32, dataIn := 0#64 }
  | [] => { word := 0#32, dataIn := 0#64 }

/-- `DATA_IN`, the operand presented with the command (00_scope.md R14, 30_encoding.md R55). -/
def State.dataIn (s : State) : Half := s.presented.dataIn

/-- The command word at the port, which fault entry records (60_exceptions.md R151). -/
def State.cmdWord (s : State) : CmdWord := s.presented.word

/-- The state once the oldest input is consumed: the block "only then accepts the next" (R48). -/
def State.consume (s : State) : State := { s with port := s.port.tail }

/-- The FAULT output, "equal to STATUS.FAULTED" (R49). -/
def State.faultOut (s : State) : Bool := s.status.faulted

/-- The status output, which "always shows STATUS" (R49). -/
def State.statusOut (s : State) : BitVec 64 := s.status.toBits

/-! ## Fault entry (60_exceptions.md R151) and its only return, reset (R153, R159) -/

/-- Fault entry: STATUS takes FAULTED = 1, the cause and the faulting word, "and nothing else". -/
def State.enterFault (s : State) (c : Cause) : State :=
  { s with status := { faulted := true, cause := c, fcmd := s.cmdWord } }

/-- `raise Fault(c)`: the command ends with fault entry (R151, 00_scope.md R14). -/
def raiseFault (c : Cause) (s : State) : Result := .next (s.enterFault c)

/-- Reset (70_reset_and_hazards.md R159): every piece of state takes its reset value and TXT becomes
unspecified anew (log 4, log 5). NATIVE_WIDTH and the host's inputs are not the block's state. -/
def State.assertReset (s : State) : State :=
  State.resetWith s.nativeWidth (s.txtDraw + 1) s.port

/-! ## Presenting one command -/

/-- Run what the word at the port stands for: decode (30_encoding.md R57), then the command's rule,
given by `run`; a word that stands for no command raises ILLEGAL_COMMAND. -/
def runPresented (run : Instr → State → Result) (s : State) : Result :=
  match decode s.cmdWord with
  | .ok i => run i s
  | .error _ => raiseFault .illegalCommand s

/-- The same outcome with the input consumed (R48). -/
def andConsume : Result → Result
  | .next s => .next s.consume
  | .fault f => .fault f
  | .refused r => .refused r

/-- Accept one command: while FAULTED = 1 it is "discarded without being decoded or executed"
(60_exceptions.md R152, log 7); else it runs to completion before the next (R48). -/
def acceptCommand (run : Instr → State → Result) (s : State) : Result :=
  if s.status.faulted then .next s.consume else andConsume (runPresented run s)

/-- One step of the block: idle with nothing presented (60_exceptions.md R158, log 2), a command
(R48), or reset (R159). -/
def stepWith (run : Instr → State → Result) (s : State) : Result :=
  match s.port with
  | [] => .next s
  | .command _ :: _ => acceptCommand run s
  | .reset :: _ => .next s.assertReset.consume

end Sys2Proof.Machine
end

