-- ==== Sys2Proof/Machine/AddSub.lean ====
section
/-! DEFINITION. The multi-precision adder and subtractor and its ten commands (41_addsub.md). -/

namespace Sys2Proof.Machine

/-! ## Data paths -/

/-- The 128-bit adder `uadd128(a, b) -> (sum, carryOut)` (R61): the carry of the low half is folded
into the high half, and carryOut is the OR of the two high-half carries. -/
def uadd128 (a b : Word) : Word × Bool :=
  let (l, c0) := addc64 (lo a) (lo b)
  let (h1, c1) := addc64 (hi a) (hi b)
  let (h2, c2) := if c0 then addc64 h1 1#64 else (h1, false)
  (halves h2 l, c1 || c2)

/-- The 128-bit subtractor `usub128(a, b) -> (diff, borrowOut)` (R63): the low borrow is folded into
the high half and does not itself set borrowOut (90_conflicts.md C1). -/
def usub128 (a b : Word) : Word × Bool :=
  let (l, br0) := subb64 (lo a) (lo b)
  let (h1, br1) := if br0 then subb64 (hi a) 1#64 else (hi a, false)
  let (h2, br2) := subb64 h1 (hi b)
  (halves h2 l, br1 || br2)

/-- Signed overflow of an addition: the high-half operation on three operands, the folded carry among
them (R65, 90_conflicts.md C2). -/
def saddOvf128 (a b : Word) : Bool := saddOv64 (hi a) (hi b) (addc64 (lo a) (lo b)).2

/-- Signed overflow of a subtraction (R65). -/
def ssubOvf128 (a b : Word) : Bool := ssubOv64 (hi a) (hi b) (subb64 (lo a) (lo b)).2

/-! ## Addition commands -/

/-- ADDW (R66): wrapping add. -/
def execAddw (rd rs1 rs2 : Reg) (s : State) : Result :=
  .next (s.setReg rd (uadd128 (s.reg rs1) (s.reg rs2)).1)

/-- ADDU (R67): checked unsigned add, OVERFLOW on a carry-out. -/
def execAddu (rd rs1 rs2 : Reg) (s : State) : Result :=
  let (sum, c) := uadd128 (s.reg rs1) (s.reg rs2)
  if c then raiseFault .overflow s else .next (s.setReg rd sum)

/-- ADDS (R68): checked signed add, OVERFLOW on signed overflow. -/
def execAdds (rd rs1 rs2 : Reg) (s : State) : Result :=
  if saddOvf128 (s.reg rs1) (s.reg rs2) then raiseFault .overflow s
  else .next (s.setReg rd (uadd128 (s.reg rs1) (s.reg rs2)).1)

/-- ADDUO (R69): unsigned add, O is the carry-out. -/
def execAdduo (rd rs1 rs2 : Reg) (s : State) : Result :=
  let (sum, c) := uadd128 (s.reg rs1) (s.reg rs2)
  .next ((s.setReg rd sum).setFlags (s.flags.withO c))

/-- ADDSO (R70): signed add, O is the signed overflow. -/
def execAddso (rd rs1 rs2 : Reg) (s : State) : Result :=
  let ovf := saddOvf128 (s.reg rs1) (s.reg rs2)
  .next ((s.setReg rd (uadd128 (s.reg rs1) (s.reg rs2)).1).setFlags (s.flags.withO ovf))

/-! ## Subtraction commands -/

/-- SUBW (R71): wrapping subtract. -/
def execSubw (rd rs1 rs2 : Reg) (s : State) : Result :=
  .next (s.setReg rd (usub128 (s.reg rs1) (s.reg rs2)).1)

/-- SUBU (R72): checked unsigned subtract, OVERFLOW on a borrow-out. -/
def execSubu (rd rs1 rs2 : Reg) (s : State) : Result :=
  let (diff, br) := usub128 (s.reg rs1) (s.reg rs2)
  if br then raiseFault .overflow s else .next (s.setReg rd diff)

/-- SUBS (R73): checked signed subtract, OVERFLOW on signed overflow. -/
def execSubs (rd rs1 rs2 : Reg) (s : State) : Result :=
  if ssubOvf128 (s.reg rs1) (s.reg rs2) then raiseFault .overflow s
  else .next (s.setReg rd (usub128 (s.reg rs1) (s.reg rs2)).1)

/-- SUBUO (R74): unsigned subtract, O is the borrow-out. -/
def execSubuo (rd rs1 rs2 : Reg) (s : State) : Result :=
  let (diff, br) := usub128 (s.reg rs1) (s.reg rs2)
  .next ((s.setReg rd diff).setFlags (s.flags.withO br))

/-- SUBSO (R75): signed subtract, O is the signed overflow. -/
def execSubso (rd rs1 rs2 : Reg) (s : State) : Result :=
  let ovf := ssubOvf128 (s.reg rs1) (s.reg rs2)
  .next ((s.setReg rd (usub128 (s.reg rs1) (s.reg rs2)).1).setFlags (s.flags.withO ovf))

end Sys2Proof.Machine
end

