-- ==== Sys2Proof/Machine/SignBridge.lean ====
section
/-! DEFINITION. The sign bridge between signed values and unsigned magnitudes, and its two commands
(42_sign_bridge.md). -/

namespace Sys2Proof.Machine

/-! ## The bridge functions -/

/-- `sign(x) = x[127]` (R76). -/
def signBit (x : Word) : Bool := x.getLsbD 127

/-- `mag(x)`, the magnitude of a signed value, read unsigned (R77). -/
def mag (x : Word) : Word :=
  if signBit x then
    if x = smin then smin else bits128i (0 - x.toInt)
  else x

/-- `applysign(m, neg)`: `m`, or its wrapping negation (R78). -/
def applySign (m : Word) (neg : Bool) : Word :=
  if neg then bits128i (0 - (m.toNat : Int)) else m

/-! ## Commands -/

/-- NEG (R79): checked signed negate, OVERFLOW for SMIN. -/
def execNeg (rd rs1 : Reg) (s : State) : Result :=
  let x := s.reg rs1
  if x = smin then raiseFault .overflow s else .next (s.setReg rd (bits128i (0 - x.toInt)))

/-- MAG (R80): signed magnitude to unsigned, total. -/
def execMag (rd rs1 : Reg) (s : State) : Result :=
  .next (s.setReg rd (mag (s.reg rs1)))

end Sys2Proof.Machine
end

