-- ==== Sys2Proof/Machine/Divide.lean ====
section
/-! DEFINITION. The long-division engine and its five commands (44_divide.md). Results are pairs
(quotient, remainder). -/

namespace Sys2Proof.Machine

/-! ## The unsigned divider (R93) -/

/-- "at most 128 outer alignment steps" (R94): the fuel of the outer loop (log 11). -/
def divOuterSteps : Nat := 128

/-- "at most 3 subtractions per step" (R94): the fuel of the inner loop (log 11). -/
def divInnerSteps : Nat := 3

/-- The inner loop of R93: while `u(r) >= u(d)`, subtract the aligned divisor `d` from `r` and add its
multiple `m` to `q`. -/
def divSubtract : Nat → (d m q r : Word) → Word × Word
  | 0, _, _, q, r => (q, r)
  | fuel + 1, d, m, q, r =>
    if d.toNat ≤ r.toNat then
      divSubtract fuel d m (bits128 (q.toNat + m.toNat)) (bits128i ((r.toNat : Int) - d.toNat))
    else (q, r)

/-- The outer loop of R93: while `u(r) >= u(b)`, align `b` just below `r` and subtract. -/
def divAlign : Nat → (b q r : Word) → Word × Word
  | 0, _, q, r => (q, r)
  | fuel + 1, b, q, r =>
    if b.toNat ≤ r.toNat then
      let k := lzc b - lzc r - 1
      let (q', r') := divSubtract divInnerSteps (b <<< k) (bits128 (2 ^ k)) q r
      divAlign fuel b q' r'
    else (q, r)

/-- The unsigned divider `udivmod(a, b) -> (q, r)` for a divisor not zero (R93): the fast paths in
the document's order, then long division by bit-aligned repeated subtraction. -/
def udivmod (a b : Word) : Word × Word :=
  if a.toNat = 0 then (zero, zero)
  else if a.toNat < b.toNat then (zero, a)
  else if b.toNat = 1 then (a, zero)
  else if popcount b = 1 then (a >>> tzc b, a &&& bits128 (b.toNat - 1))
  else divAlign divOuterSteps b zero a

/-! ## The signed divider (R95) -/

/-- `ovf` of the signed divider: the one quotient the signed range cannot hold (R95). -/
def sdivOvf (a b : Word) : Bool := decide (a = smin ∧ b = minus1)

/-- The signed divider (R95): unsigned division of the magnitudes, the quotient's sign the XOR of the
operand signs, the remainder's sign the dividend's. -/
def sdivmod (a b : Word) : Word × Word :=
  let (qm, rm) := udivmod (mag a) (mag b)
  (applySign qm ((signBit a).xor (signBit b)), applySign rm (signBit a))

/-! ## Commands: RD written first, then RD2 (log 17) -/

/-- DIVU (R98): checked unsigned divide with remainder. -/
def execDivu (rd rd2 rs1 rs2 : Reg) (s : State) : Result :=
  let b := s.reg rs2
  if b = zero then raiseFault .divByZero s
  else
    let (q, r) := udivmod (s.reg rs1) b
    .next ((s.setReg rd q).setReg rd2 r)

/-- DIVS (R99): checked signed truncating divide with remainder. -/
def execDivs (rd rd2 rs1 rs2 : Reg) (s : State) : Result :=
  let a := s.reg rs1
  let b := s.reg rs2
  if b = zero then raiseFault .divByZero s
  else if sdivOvf a b then raiseFault .overflow s
  else
    let (q, r) := sdivmod a b
    .next ((s.setReg rd q).setReg rd2 r)

/-- DIVUO (R100): a zero divisor returns the dividend twice with O = 1. -/
def execDivuo (rd rd2 rs1 rs2 : Reg) (s : State) : Result :=
  let a := s.reg rs1
  let b := s.reg rs2
  if b = zero then .next (((s.setReg rd a).setReg rd2 a).setFlags (s.flags.withO true))
  else
    let (q, r) := udivmod a b
    .next (((s.setReg rd q).setReg rd2 r).setFlags (s.flags.withO false))

/-- DIVSO (R101): O for a zero divisor and for SMIN / MINUS1. -/
def execDivso (rd rd2 rs1 rs2 : Reg) (s : State) : Result :=
  let a := s.reg rs1
  let b := s.reg rs2
  if b = zero then .next (((s.setReg rd a).setReg rd2 a).setFlags (s.flags.withO true))
  else
    let (q, r) := sdivmod a b
    .next (((s.setReg rd q).setReg rd2 r).setFlags (s.flags.withO (sdivOvf a b)))

/-- DIVFW (R102): "`raise Fault(UNSUPPORTED)`", always. -/
def execDivfw (s : State) : Result := raiseFault .unsupported s

end Sys2Proof.Machine
end

