-- ==== Sys2Proof/Machine/Logic.lean ====
section
/-! DEFINITION. The bitwise, shift and compare units and their twelve commands
(45_logic_shift_compare.md). -/

namespace Sys2Proof.Machine

/-! ## Bitwise commands -/

/-- AND (R103). -/
def execAnd (rd rs1 rs2 : Reg) (s : State) : Result :=
  let a := s.reg rs1
  let b := s.reg rs2
  .next (s.setReg rd (halves (hi a &&& hi b) (lo a &&& lo b)))

/-- OR (R104). -/
def execOr (rd rs1 rs2 : Reg) (s : State) : Result :=
  let a := s.reg rs1
  let b := s.reg rs2
  .next (s.setReg rd (halves (hi a ||| hi b) (lo a ||| lo b)))

/-- XOR (R105). -/
def execXor (rd rs1 rs2 : Reg) (s : State) : Result :=
  let a := s.reg rs1
  let b := s.reg rs2
  .next (s.setReg rd (halves (hi a ^^^ hi b) (lo a ^^^ lo b)))

/-- NOT (R106). -/
def execNot (rd rs1 : Reg) (s : State) : Result :=
  let a := s.reg rs1
  .next (s.setReg rd (halves (~~~(hi a)) (~~~(lo a))))

/-! ## Shift data paths (R108), for `0 <= k <= 127` -/

/-- `shl128(x, k)`. -/
def shl128 (x : Word) (k : Nat) : Word :=
  if k = 0 then x
  else if 64 ≤ k then halves (lo x <<< (k - 64)) 0#64
  else halves ((hi x <<< k) ||| (lo x >>> (64 - k))) (lo x <<< k)

/-- `shr128(x, k)`. -/
def shr128 (x : Word) (k : Nat) : Word :=
  if k = 0 then x
  else if 64 ≤ k then halves 0#64 (hi x >>> (k - 64))
  else halves (hi x >>> k) ((lo x >>> k) ||| (hi x <<< (64 - k)))

/-- `sar128(x, k)`. -/
def sar128 (x : Word) (k : Nat) : Word :=
  if k = 0 then x
  else if 64 ≤ k then halves (sra64 (hi x) 63) (sra64 (hi x) (k - 64))
  else halves (sra64 (hi x) k) ((lo x >>> k) ||| (hi x <<< (64 - k)))

/-- A saturating shift: the whole amount register, unsigned; 128 or more gives ZERO (R107). -/
def saturating (shift : Word → Nat → Word) (a amount : Word) : Word :=
  if 128 ≤ amount.toNat then zero else shift a amount.toNat

/-- A masked shift: the amount modulo 128, its bits 6:0 (R107). -/
def masked (shift : Word → Nat → Word) (a amount : Word) : Word :=
  shift a (amount.extractLsb' 0 7).toNat

/-! ## Shift commands -/

/-- SLL (R109): saturating shift left. -/
def execSll (rd rs1 rs2 : Reg) (s : State) : Result :=
  .next (s.setReg rd (saturating shl128 (s.reg rs1) (s.reg rs2)))

/-- SRL (R110): saturating logical shift right. -/
def execSrl (rd rs1 rs2 : Reg) (s : State) : Result :=
  .next (s.setReg rd (saturating shr128 (s.reg rs1) (s.reg rs2)))

/-- SRA (R111): saturating signed shift right; 128 or more gives ZERO even for a negative value. -/
def execSra (rd rs1 rs2 : Reg) (s : State) : Result :=
  .next (s.setReg rd (saturating sar128 (s.reg rs1) (s.reg rs2)))

/-- SLLM (R112): masked shift left. -/
def execSllm (rd rs1 rs2 : Reg) (s : State) : Result :=
  .next (s.setReg rd (masked shl128 (s.reg rs1) (s.reg rs2)))

/-- SRLM (R113): masked logical shift right. -/
def execSrlm (rd rs1 rs2 : Reg) (s : State) : Result :=
  .next (s.setReg rd (masked shr128 (s.reg rs1) (s.reg rs2)))

/-- SRAM (R114): masked signed shift right. -/
def execSram (rd rs1 rs2 : Reg) (s : State) : Result :=
  .next (s.setReg rd (masked sar128 (s.reg rs1) (s.reg rs2)))

/-! ## Compare (R115): lexicographic on (hi, lo), hi dominant -/

/-- `ult(a, b)`. -/
def ult (a b : Word) : Bool :=
  decide ((hi a).toNat < (hi b).toNat) ||
    (decide (hi a = hi b) && decide ((lo a).toNat < (lo b).toNat))

/-- `slt(a, b)`: hi compared as signed, lo as unsigned. -/
def slt (a b : Word) : Bool :=
  decide ((hi a).toInt < (hi b).toInt) ||
    (decide (hi a = hi b) && decide ((lo a).toNat < (lo b).toNat))

/-- Equality, half by half. -/
def equal (a b : Word) : Bool := decide (hi a = hi b) && decide (lo a = lo b)

/-- CMPU (R116): LT and EQ of the unsigned readings. -/
def execCmpu (rs1 rs2 : Reg) (s : State) : Result :=
  let a := s.reg rs1
  let b := s.reg rs2
  .next (s.setFlags (s.flags.withCompare (ult a b) (equal a b)))

/-- CMPS (R117): LT and EQ of the signed readings. -/
def execCmps (rs1 rs2 : Reg) (s : State) : Result :=
  let a := s.reg rs1
  let b := s.reg rs2
  .next (s.setFlags (s.flags.withCompare (slt a b) (equal a b)))

end Sys2Proof.Machine
end

