-- ==== Sys2Proof/Machine/Multiply.lean ====
section
/-! DEFINITION. The unsigned and signed multiplier with a full 256-bit product, and its seven commands
(43_multiply.md). Products are pairs (high, low). -/

namespace Sys2Proof.Machine

/-! ## Data paths -/

/-- The unsigned full-width multiplier `umulfull(a, b) -> (high, low)` (R81): zero short-circuit, the
fast path for two values below 2⁶⁴, and the four cross products. -/
def umulfull (a b : Word) : Word × Word :=
  if a.toNat = 0 ∨ b.toNat = 0 then (zero, zero)
  else if hi a = 0#64 ∧ hi b = 0#64 then
    let (ph, pl) := mul64x64 (lo a) (lo b)
    (zero, halves ph pl)
  else
    let (h00, l00) := mul64x64 (lo a) (lo b)
    let (h01, l01) := mul64x64 (lo a) (hi b)
    let (h10, l10) := mul64x64 (hi a) (lo b)
    let (h11, l11) := mul64x64 (hi a) (hi b)
    let (low1, c1) := uadd128 (halves h00 l00) (halves l01 0#64)
    let (low2, c2) := uadd128 low1 (halves l10 0#64)
    let n := c1.toNat + c2.toNat
    let high1 := (uadd128 (halves h11 l11) (zext128 h01)).1
    let high2 := (uadd128 high1 (zext128 h10)).1
    let high3 := (uadd128 high2 (bits128 n)).1
    (high3, low2)

/-- The signed full-width multiplier `smulfull(a, b) -> (high, low)` (R83): the product of the
magnitudes, its 256-bit pair negated where the signs differ; the carry out of bit 255 is discarded
(90_conflicts.md C3). -/
def smulfull (a b : Word) : Word × Word :=
  let (h, l) := umulfull (mag a) (mag b)
  if (signBit a).xor (signBit b) then
    let (l', c) := uadd128 (~~~l) (halves 0#64 1#64)
    if c then ((uadd128 (~~~h) (halves 0#64 1#64)).1, l') else (~~~h, l')
  else (h, l)

/-- Unsigned overflow of a truncating product: "overflow iff high ≠ 0" (R85). -/
def uovfMul (a b : Word) : Bool := decide ((umulfull a b).1 ≠ zero)

/-- Signed overflow of a truncating product: `high` is not the sign-extension of `low` (R85). -/
def sovfMul (a b : Word) : Bool :=
  let (high, low) := smulfull a b
  decide (high ≠ if low.getLsbD 127 then minus1 else zero)

/-! ## Truncating multiply commands -/

/-- MULW (R86): wrapping multiply. -/
def execMulw (rd rs1 rs2 : Reg) (s : State) : Result :=
  .next (s.setReg rd (umulfull (s.reg rs1) (s.reg rs2)).2)

/-- MULU (R87): checked unsigned multiply, OVERFLOW where `high` is not zero. -/
def execMulu (rd rs1 rs2 : Reg) (s : State) : Result :=
  if uovfMul (s.reg rs1) (s.reg rs2) then raiseFault .overflow s
  else .next (s.setReg rd (umulfull (s.reg rs1) (s.reg rs2)).2)

/-- MULS (R88): checked signed multiply. -/
def execMuls (rd rs1 rs2 : Reg) (s : State) : Result :=
  if sovfMul (s.reg rs1) (s.reg rs2) then raiseFault .overflow s
  else .next (s.setReg rd (smulfull (s.reg rs1) (s.reg rs2)).2)

/-- MULUO (R89): unsigned multiply, O where `high` is not zero. -/
def execMuluo (rd rs1 rs2 : Reg) (s : State) : Result :=
  let ovf := uovfMul (s.reg rs1) (s.reg rs2)
  .next ((s.setReg rd (umulfull (s.reg rs1) (s.reg rs2)).2).setFlags (s.flags.withO ovf))

/-- MULSO (R90): signed multiply, O is the signed overflow. -/
def execMulso (rd rs1 rs2 : Reg) (s : State) : Result :=
  let ovf := sovfMul (s.reg rs1) (s.reg rs2)
  .next ((s.setReg rd (smulfull (s.reg rs1) (s.reg rs2)).2).setFlags (s.flags.withO ovf))

/-! ## Full-width multiply commands: RD written first, then RD2 (log 17) -/

/-- MULUF (R91): RD takes the low, RD2 the high 128 bits of the unsigned product. -/
def execMuluf (rd rd2 rs1 rs2 : Reg) (s : State) : Result :=
  let (high, low) := umulfull (s.reg rs1) (s.reg rs2)
  .next ((s.setReg rd low).setReg rd2 high)

/-- MULSF (R92): RD takes the low, RD2 the high 128 bits of the signed product. -/
def execMulsf (rd rd2 rs1 rs2 : Reg) (s : State) : Result :=
  let (high, low) := smulfull (s.reg rs1) (s.reg rs2)
  .next ((s.setReg rd low).setReg rd2 high)

end Sys2Proof.Machine
end

