-- ==== Sys2Proof/Machine/Text.lean ====
section
/-! DEFINITION. The radix 2..36 text codec and its eight commands (46_text_codec.md). -/

namespace Sys2Proof.Machine

/-! ## Alphabet -/

/-- `digitval(c)` (R118): '0'..'9', 'a'..'z' and 'A'..'Z' have a digit value, no other code has. -/
def digitVal (c : Byte) : Option Nat :=
  let n := c.toNat
  if 0x30 ≤ n ∧ n ≤ 0x39 then some (n - 0x30)
  else if 0x61 ≤ n ∧ n ≤ 0x7A then some (n - 0x61 + 10)
  else if 0x41 ≤ n ∧ n ≤ 0x5A then some (n - 0x41 + 10)
  else none

/-- `digitchar(v)`, lowercase (R119). -/
def digitChar (v : Nat) : Byte :=
  if v ≤ 9 then BitVec.ofNat 8 (0x30 + v) else BitVec.ofNat 8 (0x61 + (v - 10))

/-- The character '+' (00_scope.md R17). -/
def plusChar : Byte := 0x2B#8

/-- The character '-' (00_scope.md R17). -/
def minusChar : Byte := 0x2D#8

/-- "if `R < 2 or R > 36` it raises BAD_RADIX" (R120). -/
def badRadix (radix : Byte) : Bool :=
  decide (radix.toNat < Config.minRadix) || decide (Config.maxRadix < radix.toNat)

/-! ## The parser (R121) -/

/-- The optional leading sign: whether the value is negated, and the characters after it. '+' is
accepted by both types, '-' by the signed type only. -/
def parseSign (signed : Bool) : List Byte → Bool × List Byte
  | [] => (false, [])
  | c :: rest =>
    if c = plusChar then (false, rest)
    else if c = minusChar ∧ signed = true then (true, rest)
    else (false, c :: rest)

/-- The accumulation `acc·R + d` over the digits (R121): absent on a character outside the alphabet,
on multiplicative overflow and on additive overflow (90_conflicts.md C7). -/
def parseDigits (radix : Nat) : Word → List Byte → Option Word
  | acc, [] => some acc
  | acc, c :: rest =>
    match digitVal c with
    | none => none
    | some d =>
      if radix ≤ d then none
      else
        let (high, p) := umulfull acc (bits128 radix)
        if high ≠ zero then none
        else
          let (sum, carry) := uadd128 p (bits128 d)
          if carry then none else parseDigits radix sum rest

/-- The signed range test on the accumulated magnitude, then the sign (R121). -/
def parseRange (signed neg : Bool) (acc : Word) : Option Word :=
  if signed then
    if neg = false ∧ 2 ^ 127 - 1 < acc.toNat then none
    else if neg = true ∧ 2 ^ 127 < acc.toNat then none
    else some (applySign acc neg)
  else some acc

/-- `parse(signed, R)` over a text (R121): the value, or none for ABSENT. -/
def parseText (signed : Bool) (radix : Nat) (text : List Byte) : Option Word :=
  let (neg, digits) := parseSign signed text
  if digits.isEmpty then none
  else (parseDigits radix zero digits).bind (parseRange signed neg)

/-! ## The formatter (R123) -/

/-- "at most 128 digits" (R124): the fuel of the formatter's loop (log 11). -/
def maxDigits : Nat := 128

/-- The loop of R123: the digits of `m`, least significant collected first, put before `digits`. -/
def formatDigits (radix : Nat) : Nat → Word → List Byte → List Byte
  | 0, _, digits => digits
  | fuel + 1, m, digits =>
    if m.toNat = 0 then digits
    else
      let (q, r) := udivmod m (bits128 radix)
      formatDigits radix fuel q (digitChar r.toNat :: digits)

/-- The text `format(x, signed, R)` writes (R123): '-' for a negative signed value, then the digits of
the magnitude, "0" for the value zero. -/
def formatText (signed : Bool) (radix : Nat) (x : Word) : List Byte :=
  let neg := signed && signBit x
  let m := if neg then mag x else x
  let digits := if m.toNat = 0 then [0x30#8] else formatDigits radix maxDigits m []
  if neg then minusChar :: digits else digits

/-! ## Buffer commands -/

/-- TWR (R126): `MemWrite(IMM8, 1, DATA_IN[7:0])`. -/
def execTwr (addr : Byte) (s : State) : Result :=
  .next (s.writeTxt addr.toNat (s.dataIn.extractLsb' 0 8))

/-- TRD (R127): `DATA_OUT <- zext_64(MemRead(IMM8, 1))`. -/
def execTrd (addr : Byte) (s : State) : Result :=
  .next (s.setDataOut ((s.readTxt addr.toNat).zeroExtend 64))

/-- TSETLEN (R128): TLEN takes DATA_IN read unsigned; INDEX_RANGE above 256. -/
def execTsetlen (s : State) : Result :=
  if Config.txtSize < s.dataIn.toNat then raiseFault .indexRange s
  else .next (s.setTlen (BitVec.ofNat 9 s.dataIn.toNat))

/-- TGETLEN (R129): `DATA_OUT <- zext_64(TLEN)`. -/
def execTgetlen (s : State) : Result :=
  .next (s.setDataOut (s.tlen.zeroExtend 64))

/-! ## Parse and format commands -/

/-- The body shared by PARSEU and PARSES (R120, R130, R131): the radix check, then the parse; PRESENT
writes `x[RD]` and clears A, ABSENT sets A and leaves `x[RD]`. A TLEN above 256, which no run
reaches, would read addresses that do not exist (log 10). -/
def parseCommand (signed : Bool) (rd : Reg) (radix : Byte) (s : State) : Result :=
  if badRadix radix then raiseFault .badRadix s
  else if Config.txtSize < s.tlen.toNat then .fault .txtAddress
  else
    match parseText signed radix.toNat s.text with
    | some v => .next ((s.setReg rd v).setFlags (s.flags.withA false))
    | none => .next (s.setFlags (s.flags.withA true))

/-- The body shared by FMTU and FMTS (R120, R123): the radix check, then the text into TXT from
address 0 and its length into TLEN. -/
def formatCommand (signed : Bool) (rs1 : Reg) (radix : Byte) (s : State) : Result :=
  if badRadix radix then raiseFault .badRadix s
  else
    let out := formatText signed radix.toNat (s.reg rs1)
    .next ((s.writeTextAt0 out).setTlen (BitVec.ofNat 9 out.length))

/-- PARSEU (R130): parse the text as unsigned. -/
def execParseu (rd : Reg) (radix : Byte) (s : State) : Result := parseCommand false rd radix s

/-- PARSES (R131): parse the text as signed. -/
def execParses (rd : Reg) (radix : Byte) (s : State) : Result := parseCommand true rd radix s

/-- FMTU (R132): format unsigned. -/
def execFmtu (rs1 : Reg) (radix : Byte) (s : State) : Result := formatCommand false rs1 radix s

/-- FMTS (R133): format signed. -/
def execFmts (rs1 : Reg) (radix : Byte) (s : State) : Result := formatCommand true rs1 radix s

end Sys2Proof.Machine
end

