-- ==== Sys2Proof/Machine/Transfer.lean ====
section
/-! DEFINITION. Construction, read-out, word decomposition, conversion and control: twelve commands
(47_transfer_control.md). -/

namespace Sys2Proof.Machine

/-! ## Control -/

/-- NOP (R134). -/
def execNop (s : State) : Result := .next s

/-- RDFLAGS (R135): `DATA_OUT <- zext_64(FLAGS)`. -/
def execRdflags (s : State) : Result :=
  .next (s.setDataOut (s.flags.toBits.zeroExtend 64))

/-! ## Construction -/

/-- LDLO (R136): the low half takes DATA_IN, the high half is kept. -/
def execLdlo (rd : Reg) (s : State) : Result :=
  .next (s.setReg rd (halves (hi (s.reg rd)) s.dataIn))

/-- LDHI (R137): the high half takes DATA_IN, the low half is kept. -/
def execLdhi (rd : Reg) (s : State) : Result :=
  .next (s.setReg rd (halves s.dataIn (lo (s.reg rd))))

/-- LDU (R138): `x[RD] <- zext_128(DATA_IN)`. -/
def execLdu (rd : Reg) (s : State) : Result :=
  .next (s.setReg rd (zext128 s.dataIn))

/-- LDS (R139): `x[RD] <- sext_128(DATA_IN)`. -/
def execLds (rd : Reg) (s : State) : Result :=
  .next (s.setReg rd (sext128 s.dataIn))

/-- LDUS (R140): NEGATIVE_TO_UNSIGNED where DATA_IN[63] is 1. -/
def execLdus (rd : Reg) (s : State) : Result :=
  if s.dataIn.getLsbD 63 then raiseFault .negativeToUnsigned s
  else .next (s.setReg rd (zext128 s.dataIn))

/-- LDBIT (R141): the value with only bit `s(DATA_IN)` set; BAD_BIT_INDEX outside 0..127. -/
def execLdbit (rd : Reg) (s : State) : Result :=
  let i := s.dataIn.toInt
  if i < 0 ∨ 127 < i then raiseFault .badBitIndex s
  else .next (s.setReg rd (bits128 (2 ^ i.toNat)))

/-! ## Read-out -/

/-- RDLO (R142). -/
def execRdlo (rs1 : Reg) (s : State) : Result := .next (s.setDataOut (lo (s.reg rs1)))

/-- RDHI (R143). -/
def execRdhi (rs1 : Reg) (s : State) : Result := .next (s.setDataOut (hi (s.reg rs1)))

/-! ## Word decomposition (R144) -/

/-- The number of words of a 128-bit value. -/
def wordCount : NativeWidth → Nat
  | .w64 => 2
  | .w32 => 4

/-- `word[k]`, zero-extended onto the 64-bit bus (R144, R145). -/
def wordAt (nw : NativeWidth) (x : Word) (k : Nat) : Half :=
  match nw with
  | .w64 => x.extractLsb' (64 * k) 64
  | .w32 => (x.extractLsb' (32 * k) 32).zeroExtend 64

/-- WORD (R145): one word of the decomposition; INDEX_RANGE for an index at or above the count. -/
def execWord (rs1 : Reg) (index : Byte) (s : State) : Result :=
  if wordCount s.nativeWidth ≤ index.toNat then raiseFault .indexRange s
  else .next (s.setDataOut (wordAt s.nativeWidth (s.reg rs1) index.toNat))

/-! ## Conversion to a narrower native integer -/

/-- The source value of a conversion (R146): signed or unsigned reading. -/
def cvtSource (srcSigned : Bool) (x : Word) : Int :=
  if srcSigned then x.toInt else (x.toNat : Int)

/-- The conversion range test (R146): `v` fits `w` bits of the target's signedness. -/
def cvtFits (w : Nat) (tgtSigned : Bool) (v : Int) : Bool :=
  if tgtSigned then decide (-2 ^ (w - 1) ≤ v) && decide (v ≤ 2 ^ (w - 1) - 1)
  else decide (0 ≤ v) && decide (v ≤ 2 ^ w - 1)

/-- `bits_w(v)` extended to the bus by the target's signedness (R147). -/
def cvtValue (w : Nat) (tgtSigned : Bool) (v : Int) : Half :=
  if tgtSigned then (BitVec.ofInt w v).signExtend 64 else (BitVec.ofInt w v).zeroExtend 64

/-- CVT (R147): the converted value with A = 0, or DATA_OUT = 0 with A = 1. -/
def execCvt (rs1 : Reg) (width : CvtWidth) (tgtSigned srcSigned : Bool) (s : State) : Result :=
  let v := cvtSource srcSigned (s.reg rs1)
  let w := cvtBits width
  if cvtFits w tgtSigned v then
    .next ((s.setDataOut (cvtValue w tgtSigned v)).setFlags (s.flags.withA false))
  else .next ((s.setDataOut 0#64).setFlags (s.flags.withA true))

end Sys2Proof.Machine
end

