-- ==== Sys2Proof/Machine/Dispatch.lean ====
section
/-! DEFINITION. One arm per command (30_encoding.md R56): its meaning. -/

namespace Sys2Proof.Machine

def exec (i : Instr) (s : State) : Host.Outcome State Fault Refusal :=
  match i with
  | .nop => Sys2Proof.Machine.execNop s
  | .rdflags => Sys2Proof.Machine.execRdflags s
  | .ldlo rd => Sys2Proof.Machine.execLdlo rd s
  | .ldhi rd => Sys2Proof.Machine.execLdhi rd s
  | .ldu rd => Sys2Proof.Machine.execLdu rd s
  | .lds rd => Sys2Proof.Machine.execLds rd s
  | .ldus rd => Sys2Proof.Machine.execLdus rd s
  | .ldbit rd => Sys2Proof.Machine.execLdbit rd s
  | .rdlo rs1 => Sys2Proof.Machine.execRdlo rs1 s
  | .rdhi rs1 => Sys2Proof.Machine.execRdhi rs1 s
  | .word rs1 index => Sys2Proof.Machine.execWord rs1 index s
  | .cvt rs1 w ts ss => Sys2Proof.Machine.execCvt rs1 w ts ss s
  | .addw rd rs1 rs2 => Sys2Proof.Machine.execAddw rd rs1 rs2 s
  | .addu rd rs1 rs2 => Sys2Proof.Machine.execAddu rd rs1 rs2 s
  | .adds rd rs1 rs2 => Sys2Proof.Machine.execAdds rd rs1 rs2 s
  | .adduo rd rs1 rs2 => Sys2Proof.Machine.execAdduo rd rs1 rs2 s
  | .addso rd rs1 rs2 => Sys2Proof.Machine.execAddso rd rs1 rs2 s
  | .subw rd rs1 rs2 => Sys2Proof.Machine.execSubw rd rs1 rs2 s
  | .subu rd rs1 rs2 => Sys2Proof.Machine.execSubu rd rs1 rs2 s
  | .subs rd rs1 rs2 => Sys2Proof.Machine.execSubs rd rs1 rs2 s
  | .subuo rd rs1 rs2 => Sys2Proof.Machine.execSubuo rd rs1 rs2 s
  | .subso rd rs1 rs2 => Sys2Proof.Machine.execSubso rd rs1 rs2 s
  | .mulw rd rs1 rs2 => Sys2Proof.Machine.execMulw rd rs1 rs2 s
  | .mulu rd rs1 rs2 => Sys2Proof.Machine.execMulu rd rs1 rs2 s
  | .muls rd rs1 rs2 => Sys2Proof.Machine.execMuls rd rs1 rs2 s
  | .muluo rd rs1 rs2 => Sys2Proof.Machine.execMuluo rd rs1 rs2 s
  | .mulso rd rs1 rs2 => Sys2Proof.Machine.execMulso rd rs1 rs2 s
  | .muluf rd rd2 rs1 rs2 => Sys2Proof.Machine.execMuluf rd rd2 rs1 rs2 s
  | .mulsf rd rd2 rs1 rs2 => Sys2Proof.Machine.execMulsf rd rd2 rs1 rs2 s
  | .divu rd rd2 rs1 rs2 => Sys2Proof.Machine.execDivu rd rd2 rs1 rs2 s
  | .divs rd rd2 rs1 rs2 => Sys2Proof.Machine.execDivs rd rd2 rs1 rs2 s
  | .divuo rd rd2 rs1 rs2 => Sys2Proof.Machine.execDivuo rd rd2 rs1 rs2 s
  | .divso rd rd2 rs1 rs2 => Sys2Proof.Machine.execDivso rd rd2 rs1 rs2 s
  | .divfw => Sys2Proof.Machine.execDivfw s
  | .neg rd rs1 => Sys2Proof.Machine.execNeg rd rs1 s
  | .mag rd rs1 => Sys2Proof.Machine.execMag rd rs1 s
  | .and rd rs1 rs2 => Sys2Proof.Machine.execAnd rd rs1 rs2 s
  | .or rd rs1 rs2 => Sys2Proof.Machine.execOr rd rs1 rs2 s
  | .xor rd rs1 rs2 => Sys2Proof.Machine.execXor rd rs1 rs2 s
  | .not rd rs1 => Sys2Proof.Machine.execNot rd rs1 s
  | .sll rd rs1 rs2 => Sys2Proof.Machine.execSll rd rs1 rs2 s
  | .srl rd rs1 rs2 => Sys2Proof.Machine.execSrl rd rs1 rs2 s
  | .sra rd rs1 rs2 => Sys2Proof.Machine.execSra rd rs1 rs2 s
  | .sllm rd rs1 rs2 => Sys2Proof.Machine.execSllm rd rs1 rs2 s
  | .srlm rd rs1 rs2 => Sys2Proof.Machine.execSrlm rd rs1 rs2 s
  | .sram rd rs1 rs2 => Sys2Proof.Machine.execSram rd rs1 rs2 s
  | .cmpu rs1 rs2 => Sys2Proof.Machine.execCmpu rs1 rs2 s
  | .cmps rs1 rs2 => Sys2Proof.Machine.execCmps rs1 rs2 s
  | .twr addr => Sys2Proof.Machine.execTwr addr s
  | .trd addr => Sys2Proof.Machine.execTrd addr s
  | .tsetlen => Sys2Proof.Machine.execTsetlen s
  | .tgetlen => Sys2Proof.Machine.execTgetlen s
  | .parseu rd radix => Sys2Proof.Machine.execParseu rd radix s
  | .parses rd radix => Sys2Proof.Machine.execParses rd radix s
  | .fmtu rs1 radix => Sys2Proof.Machine.execFmtu rs1 radix s
  | .fmts rs1 radix => Sys2Proof.Machine.execFmts rs1 radix s

end Sys2Proof.Machine
end

