-- ==== Sys2Proof/Machine/Step.lean ====
section
/-! DEFINITION. One step of the block: the operations of Machine/Ops.lean with `exec` as the commands'
rules; and how one command word comes to be presented. -/

namespace Sys2Proof.Machine

/-- One step: accept the oldest input of the host (30_encoding.md R48, 70_reset_and_hazards.md R159);
idle where there is none (60_exceptions.md R158). -/
def step (s : State) : Host.Outcome State Fault Refusal := stepWith exec s

/-- The state with the command of the table word `w` of `nbits` bits as its next input: CMD is bits
31:0 of the word, DATA_IN its bits 95:32, all bits above `nbits` being 0 (log 14). -/
def State.withFetchWord (s : State) (nbits w : Nat) : State :=
  let n := w % 2 ^ nbits
  { s with
    port := .command { word := BitVec.ofNat 32 n, dataIn := BitVec.ofNat 64 (n >>> 32) } :: s.port }

end Sys2Proof.Machine
end

