-- ==== Sys2Proof/Safety.lean ====
section
/-! DEFINITION. What counts as a safe run, the state invariant, and the words the statements are
written in: how a command completes, what it leaves unchanged, and how it faults. -/

namespace Sys2Proof.Machine

/-! ## Safe states -/

/-- A state a successful run may end in: "a run whose final STATUS.FAULTED = 1 ended in a fault"
(70_reset_and_hazards.md R165, 60_exceptions.md R152). -/
def State.safe (s : State) : Prop := s.status.faulted = false

/-- The invariant of the machine: TXT in canonical form inside its 256 addresses (20_memory.md R37),
TLEN at most 256 (10_state.md R34), CAUSE and FCMD set exactly by fault entry (R31, 60_exceptions.md
R151), and LT, EQ never both 1 (45_logic_shift_compare.md R116). -/
structure State.Inv (s : State) : Prop where
  txt : Memory.wf s.txt = true
  tlen : s.tlen.toNat ≤ Config.txtSize
  noFault : s.status.faulted = false → s.status.cause = .none ∧ s.status.fcmd = 0#32
  someFault : s.status.faulted = true → s.status.cause ≠ .none
  compare : ¬(s.flags.lt = true ∧ s.flags.eq = true)

/-! ## What a command leaves unchanged -/

/-- The host's inputs and the machine's parameters are unchanged. -/
def KeepsOwn (s t : State) : Prop :=
  t.port = s.port ∧ t.txtDraw = s.txtDraw ∧ t.nativeWidth = s.nativeWidth

/-- Every general register is unchanged. -/
def KeepsRegs (s t : State) : Prop := ∀ r, t.reg r = s.reg r

/-- Every byte of TXT is unchanged, and which bytes have been written. -/
def KeepsTxt (s t : State) : Prop :=
  (∀ a, t.readTxt a = s.readTxt a) ∧ ∀ a, Memory.read? t.txt a = Memory.read? s.txt a

/-- STATUS, DATA_OUT, TLEN and TXT are unchanged: a command that writes registers and flags only. -/
def KeepsRest (s t : State) : Prop :=
  t.status = s.status ∧ t.dataOut = s.dataOut ∧ t.tlen = s.tlen ∧ KeepsTxt s t ∧ KeepsOwn s t

/-! ## What a command writes -/

/-- `x[rd]` is `v` afterwards (nothing where `rd` is 0, 10_state.md R28), every other register is
unchanged. -/
def RegsSet (s t : State) (rd : Reg) (v : Word) : Prop :=
  ∀ r, t.reg r = if r = 0 then 0#128 else if r = rd then v else s.reg r

/-- `x[rd]` is `v` and `x[rd2]` is `w` afterwards (nothing where one is 0), every other register is
unchanged. -/
def RegsSet2 (s t : State) (rd : Reg) (v : Word) (rd2 : Reg) (w : Word) : Prop :=
  ∀ r, t.reg r = if r = 0 then 0#128 else if r = rd then v else if r = rd2 then w else s.reg r

/-- `exec` answers a next state in which `x[rd]` is `v` and nothing else has changed. -/
def CompletesSetting (i : Instr) (s : State) (rd : Reg) (v : Word) : Prop :=
  ∃ t, exec i s = .next t ∧ RegsSet s t rd v ∧ t.flags = s.flags ∧ KeepsRest s t

/-- `exec` answers a next state in which `x[rd]` is `v`, FLAGS.O is `o` and nothing else has
changed. -/
def CompletesReporting (i : Instr) (s : State) (rd : Reg) (v : Word) (o : Bool) : Prop :=
  ∃ t, exec i s = .next t ∧ RegsSet s t rd v ∧ t.flags = { s.flags with o := o } ∧ KeepsRest s t

/-- `exec` answers a next state in which `x[rd]` is `v`, `x[rd2]` is `w` and nothing else has
changed. -/
def CompletesSetting2 (i : Instr) (s : State) (rd : Reg) (v : Word) (rd2 : Reg) (w : Word) : Prop :=
  ∃ t, exec i s = .next t ∧ RegsSet2 s t rd v rd2 w ∧ t.flags = s.flags ∧ KeepsRest s t

/-- `exec` answers a next state in which `x[rd]` is `v`, `x[rd2]` is `w`, FLAGS.O is `o` and nothing
else has changed. -/
def CompletesReporting2 (i : Instr) (s : State) (rd : Reg) (v : Word) (rd2 : Reg) (w : Word)
    (o : Bool) : Prop :=
  ∃ t, exec i s = .next t ∧ RegsSet2 s t rd v rd2 w ∧ t.flags = { s.flags with o := o } ∧
    KeepsRest s t

/-- `exec` answers a next state in which DATA_OUT is `v`, FLAGS is `f` and nothing else has
changed. -/
def CompletesReading (i : Instr) (s : State) (v : Half) (f : Flags) : Prop :=
  ∃ t, exec i s = .next t ∧ t.dataOut = v ∧ t.flags = f ∧ KeepsRegs s t ∧ t.status = s.status ∧
    t.tlen = s.tlen ∧ KeepsTxt s t ∧ KeepsOwn s t

/-- `exec` takes fault entry (60_exceptions.md R151): STATUS records the cause and the command word,
"and nothing else" changes. -/
def TakesFault (i : Instr) (s : State) (c : Cause) : Prop :=
  exec i s = .next { s with status := { faulted := true, cause := c, fcmd := s.cmdWord } }

/-- The word of these fields stands for this command (30_encoding.md R50, R56, R57). -/
def EncodedAs (opc : BitVec 8) (rd rd2 rs1 rs2 : Reg) (imm : Byte) (i : Instr) : Prop :=
  decode (pack opc rd rd2 rs1 rs2 imm) = .ok i

/-- Presenting the word `w` out of the faulted state raises ILLEGAL_COMMAND: the command is consumed,
STATUS records it, nothing else changes (30_encoding.md R57, R58, 60_exceptions.md R151). -/
def RaisesIllegal (w : CmdWord) : Prop :=
  ∀ (s : State) (d : Half) (rest : List Input), s.port = .command { word := w, dataIn := d } :: rest →
    s.status.faulted = false →
    step s = .next { s with
      status := { faulted := true, cause := .illegalCommand, fcmd := w }, port := rest }

/-! ## Readings used by the statements -/

/-- An integer inside the signed 128-bit range (00_scope.md R16). -/
def InSigned (n : Int) : Prop := -2 ^ 127 ≤ n ∧ n ≤ 2 ^ 127 - 1

/-- A character is a digit of radix `R` (46_text_codec.md R118). -/
def IsDigit (radix : Nat) (c : Byte) : Prop := ∃ d, digitVal c = some d ∧ d < radix

/-- The number the digits spell in radix `R`, most significant first (R122). -/
def spelled (radix : Nat) (digits : List Byte) : Nat :=
  digits.foldl (fun n c => n * radix + (digitVal c).getD 0) 0

/-- The lowercase form of a letter; other characters as they are (R125). -/
def lowerCase (c : Byte) : Byte :=
  if 0x41 ≤ c.toNat ∧ c.toNat ≤ 0x5A then c + 0x20#8 else c

/-- The normal form of a text (R125): '+' removed, leading zeros removed with a run of zeros becoming
"0", letters in lowercase, "-0...0" becoming "0". -/
def normalText (signed : Bool) (text : List Byte) : List Byte :=
  let (neg, digits) := parseSign signed text
  let body := (digits.dropWhile (· == 0x30#8)).map lowerCase
  if body.isEmpty then [0x30#8] else if neg then minusChar :: body else body

end Sys2Proof.Machine
end

