-- ==== Sys2Proof/Certificates/Slice0/Obligations.lean ====
section
/-! DEFINITION. The statements for the provers. Each says which rule of spec/ it formalises. "Completes"
statements conclude that `exec` answers a next state, with the frame of the command (Safety.lean). -/

open Sys2Proof Sys2Proof.Machine

/-! ## Encoding (30_encoding.md) -/

/-- R50, R51, R56: every well-formed command, with every operand, decodes from its encoding. -/
def Obligations.DecodeOfEncodeIsTheCommand : Prop :=
  ∀ i : Instr, i.wf = true → decode (encode i) = .ok i

/-- R57, R58: a word that decodes is the encoding of the command it decodes to, so no bit of it is
dropped; only DIVFW ignores bits. -/
def Obligations.EncodeOfDecodeIsTheWord : Prop :=
  ∀ (w : CmdWord) (i : Instr), decode w = .ok i →
    i.wf = true ∧ (i ≠ .divfw → encode i = w) ∧ (i = .divfw → opcField w = 0x44#8)

/-- R56, R57: the decoder accepts exactly the words that select a row of the opcode map, a DEST word
with RD = RD2 and not 0 apart, and gives the command of that row. -/
def Obligations.DecoderFollowsTheOpcodeMap : Prop :=
  ∀ w : CmdWord,
    (∀ i, decode w = .ok i → ∃ r ∈ opcodeMap, r.selects w = true ∧ r.mnemonic = i.mnemonic ∧
      ¬(r.dest = true ∧ rdField w = rd2Field w ∧ rdField w ≠ 0)) ∧
    (∀ r ∈ opcodeMap, r.selects w = true →
      ¬(r.dest = true ∧ rdField w = rd2Field w ∧ rdField w ≠ 0) →
      ∃ i, decode w = .ok i ∧ i.mnemonic = r.mnemonic)

/-- R56: "no word matches two rows"; 56 commands. -/
def Obligations.NoWordMatchesTwoRows : Prop :=
  opcodeMap.length = 56 ∧
  ∀ (w : CmdWord), ∀ r ∈ opcodeMap, ∀ r' ∈ opcodeMap,
    r.selects w = true → r'.selects w = true → r = r'

/-- Words written out in 95_test_vectors.md decode to their commands (a sanity statement). -/
def Obligations.WrittenOutWordsDecode : Prop :=
  decode 0x20301200#32 = .ok (.addw 3 1 2) ∧ decode 0x35341200#32 = .ok (.muluf 3 4 1 2) ∧
  decode 0x48201000#32 = .ok (.neg 2 1) ∧ decode 0x6000A700#32 = .ok (.cmpu 10 7) ∧
  decode 0x7510000A#32 = .ok (.parses 1 10#8) ∧ decode 0x7700300A#32 = .ok (.fmts 3 10#8) ∧
  decode 0x1900500C#32 = .ok (.cvt 5 .w8 true true) ∧ decode 0x10400000#32 = .ok (.ldlo 4) ∧
  decode 0x44123400#32 = .ok .divfw ∧ decode 0x71000005#32 = .ok (.trd 5#8)

/-- R58: the listed opcode bytes, and an assigned opcode with a 1 in a must-be-zero bit, raise
ILLEGAL_COMMAND; the only no-op is the word 0; only DIVFW ignores bits 23:0. -/
def Obligations.UnassignedWordsRaiseIllegalCommand : Prop :=
  (∀ w : CmdWord, (let n := (opcField w).toNat
      (0x02 ≤ n ∧ n ≤ 0x0F) ∨ (0x1A ≤ n ∧ n ≤ 0x1F) ∨ (0x25 ≤ n ∧ n ≤ 0x27) ∨
      (0x2D ≤ n ∧ n ≤ 0x2F) ∨ (0x37 ≤ n ∧ n ≤ 0x3F) ∨ (0x45 ≤ n ∧ n ≤ 0x47) ∨
      (0x4A ≤ n ∧ n ≤ 0x4F) ∨ (0x54 ≤ n ∧ n ≤ 0x57) ∨ n = 0x5B ∨ n = 0x5F ∨
      (0x62 ≤ n ∧ n ≤ 0x6F) ∨ 0x78 ≤ n) → RaisesIllegal w) ∧
  (∀ w : CmdWord, ∀ r ∈ opcodeMap, opcField w = opcField r.pattern → r.selects w = false →
    RaisesIllegal w) ∧
  (∀ w : CmdWord, decode w = .ok .nop ↔ w = 0#32) ∧
  (∀ w : CmdWord, opcField w = 0x44#8 → decode w = .ok .divfw)

/-- 10_state.md R26, 30_encoding.md R57: a DEST command whose RD and RD2 are equal and not 0 raises
ILLEGAL_COMMAND. -/
def Obligations.EqualDestinationsRaiseIllegalCommand : Prop :=
  ∀ opc ∈ [0x35#8, 0x36#8, 0x40#8, 0x41#8, 0x42#8, 0x43#8], ∀ (rd rs1 rs2 : Reg) (imm : Byte),
    rd ≠ 0 → RaisesIllegal (pack opc rd rd rs1 rs2 imm)

/-! ## The step (30_encoding.md R48, 60_exceptions.md, 70_reset_and_hazards.md) -/

/-- R48, R57: with a command at the port and FAULTED = 0, a step is the decoded command's `exec` at
that state, the input then consumed; DATA_IN and CMD are those presented. -/
def Obligations.StepRunsTheDecodedCommand : Prop :=
  ∀ (s : State) (c : Command) (rest : List Input) (i : Instr),
    s.port = .command c :: rest → s.status.faulted = false → decode c.word = .ok i →
    s.dataIn = c.dataIn ∧ s.cmdWord = c.word ∧
    step s = (match exec i s with
      | .next u => .next { u with port := u.port.tail }
      | .fault f => .fault f
      | .refused r => .refused r)

/-- 60_exceptions.md R152: over any number of commands presented while FAULTED = 1, every one is
discarded and no state changes (the host's inputs, the model's own field, apart). -/
def Obligations.FaultedBlockDiscardsEveryCommand : Prop :=
  ∀ (k : Nat) (s : State), s.status.faulted = true →
    (∀ e ∈ s.port, ∃ c, e = Input.command c) →
    Sys2Proof.core.run k s = .next { s with port := s.port.drop k }

/-- 70_reset_and_hazards.md R159, 60_exceptions.md R153: asserting reset puts every piece of state into
its reset state, from any state, the faulted one among them; TXT is unspecified afresh. That reset is an
input event, keeps the inputs to come and NATIVE_WIDTH and moves the draw on is the model's choice
(log 4, log 5). -/
def Obligations.AssertedResetResetsEveryPiece : Prop :=
  ∀ (s : State) (rest : List Input), s.port = .reset :: rest →
    ∃ t, step s = .next t ∧ (∀ r, t.reg r = 0#128) ∧ t.flags.toBits = 0#8 ∧
      t.status.toBits = 0#64 ∧ t.status.cause = .none ∧ t.faultOut = false ∧ t.dataOut = 0#64 ∧
      t.tlen = 0#9 ∧ (∀ a, Memory.read? t.txt a = none) ∧
      (∀ a, t.readTxt a = Config.freeTxtByte (s.txtDraw + 1) a) ∧ t.port = rest ∧
      t.nativeWidth = s.nativeWidth

/-- 70_reset_and_hazards.md R159 and 10_state.md R27, R28, R30, R31, R32, R34, 20_memory.md R38: the reset
state. That every TXT byte then reads as the free value `Config.freeTxtByte` at the state's draw is the
model's form of R38's "free draw" (log 5, DESIGN CHOICE), whatever that value is. The values of
NATIVE_WIDTH, of the draw and of the inputs to come are the model's choices (log 6, log 5, log 1) and are
not stated. -/
def Obligations.ResetStateHoldsTheResetValues : Prop :=
  (∀ r, State.reset.reg r = 0#128) ∧ State.reset.flags.toBits = 0#8 ∧
    State.reset.status.toBits = 0#64 ∧ State.reset.faultOut = false ∧ State.reset.dataOut = 0#64 ∧
    State.reset.tlen = 0#9 ∧
    (∀ a, State.reset.readTxt a = Config.freeTxtByte State.reset.txtDraw a)

/-- 60_exceptions.md R158: "the block is idle between commands and keeps all state while idle"; that an
idle step is a step at all is the model's choice (log 2). -/
def Obligations.IdleBlockKeepsAllState : Prop :=
  ∀ s : State, s.port = [] → step s = .next s

/-- Every step keeps the invariant: TXT canonical (20_memory.md R37), TLEN at most 256 (10_state.md
R34), CAUSE and FCMD set exactly by fault entry (R31), LT and EQ never both 1 (R116). -/
def Obligations.StepKeepsTheInvariant : Prop :=
  ∀ s t : State, s.Inv → step s = .next t → t.Inv

/-- The reset state meets the invariant. -/
def Obligations.ResetStateMeetsTheInvariant : Prop := State.reset.Inv

/-- From every state that meets the invariant a step answers a next state: the machine's own stop (a
PARSE past TXT[255], log 10) is never reached. -/
def Obligations.InvariantStatesAlwaysStep : Prop :=
  ∀ s : State, s.Inv → ∃ t, step s = .next t

/-- 60_exceptions.md R151: a step on which STATUS.FAULTED rises records a cause and the faulting word
in STATUS and changes nothing else of the state, the consumed input apart. -/
def Obligations.FaultEntryWritesOnlyStatus : Prop :=
  ∀ (s t : State) (c : Command) (rest : List Input), s.port = .command c :: rest →
    s.status.faulted = false → step s = .next t → t.status.faulted = true →
    ∃ cause, cause ≠ Cause.none ∧ t = { s with
      status := { faulted := true, cause := cause, fcmd := c.word }, port := rest }

/-- 60_exceptions.md R149: after decode, a cause is raised only by the commands its row lists. -/
def Obligations.CausesAreRaisedOnlyByTheirCommands : Prop :=
  ∀ (i : Instr) (s t : State), s.status.faulted = false → exec i s = .next t →
    t.status.faulted = true →
    i.mnemonic ∈ (match t.status.cause with
      | .overflow => ["ADDU", "ADDS", "SUBU", "SUBS", "MULU", "MULS", "NEG", "DIVS"]
      | .divByZero => ["DIVU", "DIVS"]
      | .unsupported => ["DIVFW"]
      | .badRadix => ["PARSEU", "PARSES", "FMTU", "FMTS"]
      | .badBitIndex => ["LDBIT"]
      | .negativeToUnsigned => ["LDUS"]
      | .indexRange => ["WORD", "TSETLEN"]
      | .none => []
      | .illegalCommand => [] : List String)

/-- 10_state.md R31, R29 and 60_exceptions.md R149: the host reads STATUS as FAULTED in bit 0, the
cause's code in bits 11:8 and FCMD in bits 63:32, and FLAGS as O, LT, EQ, A in bits 0 to 3; every
other bit is zero. -/
def Obligations.StatusAndFlagsReadAsLaidOut : Prop :=
  (∀ s : State, s.statusOut.toNat = s.status.faulted.toNat + s.status.cause.code.toNat * 2 ^ 8
    + s.status.fcmd.toNat * 2 ^ 32 ∧ s.faultOut = s.status.faulted) ∧
  (∀ s : State, s.flags.toBits.toNat = s.flags.o.toNat + s.flags.lt.toNat * 2
    + s.flags.eq.toNat * 4 + s.flags.a.toNat * 8) ∧
  [Cause.none, .illegalCommand, .overflow, .divByZero, .unsupported, .badRadix, .badBitIndex,
    .negativeToUnsigned, .indexRange].map (fun c => c.code.toNat) = [0, 1, 2, 3, 4, 5, 6, 7, 8]

/-! ## Whole-machine frames (10_state.md R25, R29, R32, R34) -/

/-- 10_state.md R25, R28: a command writes no general register but its destinations, and `x[0]` stays
zero; no command touches the host's inputs, the draw or NATIVE_WIDTH. -/
def Obligations.OnlyDestinationRegistersChange : Prop :=
  ∀ (i : Instr) (s t : State), exec i s = .next t →
    (∀ r, r ∉ i.dests → t.reg r = s.reg r) ∧ t.reg 0 = 0#128 ∧
    (t.status ≠ s.status → KeepsRegs s t) ∧ KeepsOwn s t

/-- 10_state.md R29: each flag bit is written only by the commands its row lists, and no flag bit by a
command that faults. -/
def Obligations.OnlyListedCommandsWriteFlags : Prop :=
  ∀ (i : Instr) (s t : State), exec i s = .next t →
    (t.flags.o ≠ s.flags.o → i.mnemonic ∈
      ["ADDUO", "ADDSO", "SUBUO", "SUBSO", "MULUO", "MULSO", "DIVUO", "DIVSO"]) ∧
    (t.flags.lt ≠ s.flags.lt → i.mnemonic ∈ ["CMPU", "CMPS"]) ∧
    (t.flags.eq ≠ s.flags.eq → i.mnemonic ∈ ["CMPU", "CMPS"]) ∧
    (t.flags.a ≠ s.flags.a → i.mnemonic ∈ ["PARSEU", "PARSES", "CVT"]) ∧
    (t.status ≠ s.status → t.flags = s.flags)

/-- 10_state.md R32: DATA_OUT "is written only by RDLO, RDHI, WORD, CVT, RDFLAGS, TRD and TGETLEN". -/
def Obligations.OnlyListedCommandsWriteDataOut : Prop :=
  ∀ (i : Instr) (s t : State), exec i s = .next t → t.dataOut ≠ s.dataOut →
    i.mnemonic ∈ ["RDLO", "RDHI", "WORD", "CVT", "RDFLAGS", "TRD", "TGETLEN"]

/-- 10_state.md R34, 20_memory.md R37: TLEN is written only by TSETLEN, FMTU and FMTS; TXT only by
TWR, FMTU and FMTS. -/
def Obligations.OnlyListedCommandsWriteTlenAndTxt : Prop :=
  ∀ (i : Instr) (s t : State), exec i s = .next t →
    (t.tlen ≠ s.tlen → i.mnemonic ∈ ["TSETLEN", "FMTU", "FMTS"]) ∧
    (i.mnemonic ∉ ["TWR", "FMTU", "FMTS"] → t.txt = s.txt ∧ KeepsTxt s t)

/-- 30_encoding.md R48, R55 and 93_implementation_defined.md U13: a command whose rule does not read
DATA_IN ignores it entirely, and TWR reads only its bits 7:0. -/
def Obligations.UnreadDataInIsIgnored : Prop :=
  ∀ (i : Instr) (s t : State) (w : CmdWord) (d d' : Half) (rest : List Input),
    s.port = .command { word := w, dataIn := d } :: rest → exec i s = .next t →
    (i.mnemonic ∉ ["LDLO", "LDHI", "LDU", "LDS", "LDUS", "LDBIT", "TWR", "TSETLEN"] ∨
      (i.mnemonic = "TWR" ∧ d.extractLsb' 0 8 = d'.extractLsb' 0 8)) →
    exec i { s with port := .command { word := w, dataIn := d' } :: rest } =
      .next { t with port := .command { word := w, dataIn := d' } :: rest }

/-! ## Registers and TXT -/

/-- 10_state.md R28: "a read of `x[0]` returns `ZERO`; a write to `x[0]` is discarded without
effect". -/
def Obligations.RegisterZeroReadsZeroAndDiscards : Prop :=
  ∀ (s : State) (v : Word), s.reg 0 = 0#128 ∧ s.setReg 0 v = s

/-- 20_memory.md R38: a read returns the byte last written since reset. That a byte not written since reset
reads as the free value `Config.freeTxtByte` at the state's draw, whatever that value is, is the model's
form of R38's "free draw" (log 5, DESIGN CHOICE). -/
def Obligations.TxtReadsTheByteLastWritten : Prop :=
  (∀ (s : State) (a b : Nat) (v : Byte),
    (s.writeTxt a v).readTxt b = if b = a then v else s.readTxt b) ∧
  (∀ (s : State) (a : Nat), Memory.read? s.txt a = none →
    s.readTxt a = Config.freeTxtByte s.txtDraw a) ∧
  (∀ (s : State) (a : Nat) (v : Byte), Memory.read? (s.writeTxt a v).txt a = some v)

/-! ## Adder and subtractor (41_addsub.md) -/

/-- R66, R71: ADDW and SUBW write the sum and difference modulo 2¹²⁸; no flag, no exception. -/
def Obligations.WrappingAddAndSubtractComplete : Prop :=
  ∀ (rd rs1 rs2 : Reg) (s : State),
    EncodedAs 0x20#8 rd 0 rs1 rs2 0#8 (.addw rd rs1 rs2) ∧
    EncodedAs 0x28#8 rd 0 rs1 rs2 0#8 (.subw rd rs1 rs2) ∧
    CompletesSetting (.addw rd rs1 rs2) s rd (s.reg rs1 + s.reg rs2) ∧
    CompletesSetting (.subw rd rs1 rs2) s rd (s.reg rs1 - s.reg rs2)

/-- R67, R68: ADDU and ADDS write the sum where it is representable and raise OVERFLOW, writing
nothing else, where it is not. -/
def Obligations.CheckedAddsCompleteOrOverflow : Prop :=
  ∀ (rd rs1 rs2 : Reg) (s : State),
    EncodedAs 0x21#8 rd 0 rs1 rs2 0#8 (.addu rd rs1 rs2) ∧
    EncodedAs 0x22#8 rd 0 rs1 rs2 0#8 (.adds rd rs1 rs2) ∧
    ((s.reg rs1).toNat + (s.reg rs2).toNat < 2 ^ 128 →
      CompletesSetting (.addu rd rs1 rs2) s rd (s.reg rs1 + s.reg rs2)) ∧
    (2 ^ 128 ≤ (s.reg rs1).toNat + (s.reg rs2).toNat →
      TakesFault (.addu rd rs1 rs2) s .overflow) ∧
    (InSigned ((s.reg rs1).toInt + (s.reg rs2).toInt) →
      CompletesSetting (.adds rd rs1 rs2) s rd (s.reg rs1 + s.reg rs2)) ∧
    (¬InSigned ((s.reg rs1).toInt + (s.reg rs2).toInt) →
      TakesFault (.adds rd rs1 rs2) s .overflow)

/-- R72, R73: SUBU and SUBS likewise. -/
def Obligations.CheckedSubtractsCompleteOrOverflow : Prop :=
  ∀ (rd rs1 rs2 : Reg) (s : State),
    EncodedAs 0x29#8 rd 0 rs1 rs2 0#8 (.subu rd rs1 rs2) ∧
    EncodedAs 0x2A#8 rd 0 rs1 rs2 0#8 (.subs rd rs1 rs2) ∧
    ((s.reg rs2).toNat ≤ (s.reg rs1).toNat →
      CompletesSetting (.subu rd rs1 rs2) s rd (s.reg rs1 - s.reg rs2)) ∧
    ((s.reg rs1).toNat < (s.reg rs2).toNat → TakesFault (.subu rd rs1 rs2) s .overflow) ∧
    (InSigned ((s.reg rs1).toInt - (s.reg rs2).toInt) →
      CompletesSetting (.subs rd rs1 rs2) s rd (s.reg rs1 - s.reg rs2)) ∧
    (¬InSigned ((s.reg rs1).toInt - (s.reg rs2).toInt) →
      TakesFault (.subs rd rs1 rs2) s .overflow)

/-- R69, R70: ADDUO and ADDSO write the wrapped sum, and O is the carry-out, respectively the signed
overflow. -/
def Obligations.ReportingAddsCompleteWithO : Prop :=
  ∀ (rd rs1 rs2 : Reg) (s : State),
    EncodedAs 0x23#8 rd 0 rs1 rs2 0#8 (.adduo rd rs1 rs2) ∧
    EncodedAs 0x24#8 rd 0 rs1 rs2 0#8 (.addso rd rs1 rs2) ∧
    (∀ o : Bool, (o = true ↔ 2 ^ 128 ≤ (s.reg rs1).toNat + (s.reg rs2).toNat) →
      CompletesReporting (.adduo rd rs1 rs2) s rd (s.reg rs1 + s.reg rs2) o) ∧
    (∀ o : Bool, (o = true ↔ ¬InSigned ((s.reg rs1).toInt + (s.reg rs2).toInt)) →
      CompletesReporting (.addso rd rs1 rs2) s rd (s.reg rs1 + s.reg rs2) o)

/-- R74, R75: SUBUO and SUBSO write the wrapped difference, and O is the borrow-out, respectively the
signed overflow. -/
def Obligations.ReportingSubtractsCompleteWithO : Prop :=
  ∀ (rd rs1 rs2 : Reg) (s : State),
    EncodedAs 0x2B#8 rd 0 rs1 rs2 0#8 (.subuo rd rs1 rs2) ∧
    EncodedAs 0x2C#8 rd 0 rs1 rs2 0#8 (.subso rd rs1 rs2) ∧
    (∀ o : Bool, (o = true ↔ (s.reg rs1).toNat < (s.reg rs2).toNat) →
      CompletesReporting (.subuo rd rs1 rs2) s rd (s.reg rs1 - s.reg rs2) o) ∧
    (∀ o : Bool, (o = true ↔ ¬InSigned ((s.reg rs1).toInt - (s.reg rs2).toInt)) →
      CompletesReporting (.subso rd rs1 rs2) s rd (s.reg rs1 - s.reg rs2) o)

/-! ## Sign bridge (42_sign_bridge.md) -/

/-- R79: NEG writes the negation, and raises OVERFLOW for SMIN. -/
def Obligations.NegateCompletesOrOverflows : Prop :=
  ∀ (rd rs1 : Reg) (s : State),
    EncodedAs 0x48#8 rd 0 rs1 0 0#8 (.neg rd rs1) ∧
    (s.reg rs1 ≠ smin →
      ∃ v, v.toInt = -(s.reg rs1).toInt ∧ CompletesSetting (.neg rd rs1) s rd v) ∧
    (s.reg rs1 = smin → TakesFault (.neg rd rs1) s .overflow)

/-- R80: MAG writes the magnitude for every value, SMIN included. -/
def Obligations.MagnitudeCompletes : Prop :=
  ∀ (rd rs1 : Reg) (s : State),
    EncodedAs 0x49#8 rd 0 rs1 0 0#8 (.mag rd rs1) ∧
    ∃ v, v.toNat = (s.reg rs1).toInt.natAbs ∧ CompletesSetting (.mag rd rs1) s rd v

/-! ## Multiplier (43_multiply.md) -/

/-- R82, an inference of the spec from R81: the four cross products and both fast paths give the
exact 256-bit product. -/
def Obligations.UnsignedMultiplierIsExact : Prop :=
  ∀ a b : Word, (umulfull a b).1.toNat * 2 ^ 128 + (umulfull a b).2.toNat = a.toNat * b.toNat

/-- R84, an inference of the spec from R82 and R83: "`s(high)·2¹²⁸ + u(low) = s(a)·s(b)` exactly". -/
def Obligations.SignedMultiplierIsExact : Prop :=
  ∀ a b : Word, (smulfull a b).1.toInt * 2 ^ 128 + (smulfull a b).2.toNat = a.toInt * b.toInt

/-- R86, R87, R89: MULW, MULU and MULUO write the product modulo 2¹²⁸; MULU raises OVERFLOW and MULUO
sets O where it is 2¹²⁸ or more. -/
def Obligations.UnsignedTruncatingMultipliesComplete : Prop :=
  ∀ (rd rs1 rs2 : Reg) (s : State),
    EncodedAs 0x30#8 rd 0 rs1 rs2 0#8 (.mulw rd rs1 rs2) ∧
    EncodedAs 0x31#8 rd 0 rs1 rs2 0#8 (.mulu rd rs1 rs2) ∧
    EncodedAs 0x33#8 rd 0 rs1 rs2 0#8 (.muluo rd rs1 rs2) ∧
    CompletesSetting (.mulw rd rs1 rs2) s rd (s.reg rs1 * s.reg rs2) ∧
    ((s.reg rs1).toNat * (s.reg rs2).toNat < 2 ^ 128 →
      CompletesSetting (.mulu rd rs1 rs2) s rd (s.reg rs1 * s.reg rs2)) ∧
    (2 ^ 128 ≤ (s.reg rs1).toNat * (s.reg rs2).toNat →
      TakesFault (.mulu rd rs1 rs2) s .overflow) ∧
    (∀ o : Bool, (o = true ↔ 2 ^ 128 ≤ (s.reg rs1).toNat * (s.reg rs2).toNat) →
      CompletesReporting (.muluo rd rs1 rs2) s rd (s.reg rs1 * s.reg rs2) o)

/-- R88, R90: MULS and MULSO write the product modulo 2¹²⁸; MULS raises OVERFLOW and MULSO sets O
where the signed product is not representable. -/
def Obligations.SignedTruncatingMultipliesComplete : Prop :=
  ∀ (rd rs1 rs2 : Reg) (s : State),
    EncodedAs 0x32#8 rd 0 rs1 rs2 0#8 (.muls rd rs1 rs2) ∧
    EncodedAs 0x34#8 rd 0 rs1 rs2 0#8 (.mulso rd rs1 rs2) ∧
    (InSigned ((s.reg rs1).toInt * (s.reg rs2).toInt) →
      CompletesSetting (.muls rd rs1 rs2) s rd (s.reg rs1 * s.reg rs2)) ∧
    (¬InSigned ((s.reg rs1).toInt * (s.reg rs2).toInt) →
      TakesFault (.muls rd rs1 rs2) s .overflow) ∧
    (∀ o : Bool, (o = true ↔ ¬InSigned ((s.reg rs1).toInt * (s.reg rs2).toInt)) →
      CompletesReporting (.mulso rd rs1 rs2) s rd (s.reg rs1 * s.reg rs2) o)

/-- R91, R92: MULUF and MULSF write the low half of the 256-bit product into RD and its high half,
read unsigned respectively signed, into RD2. -/
def Obligations.FullWidthMultipliesComplete : Prop :=
  ∀ (rd rd2 rs1 rs2 : Reg) (s : State), (rd = 0 ∨ rd ≠ rd2) →
    EncodedAs 0x35#8 rd rd2 rs1 rs2 0#8 (.muluf rd rd2 rs1 rs2) ∧
    EncodedAs 0x36#8 rd rd2 rs1 rs2 0#8 (.mulsf rd rd2 rs1 rs2) ∧
    CompletesSetting2 (.muluf rd rd2 rs1 rs2) s rd (s.reg rs1 * s.reg rs2)
      rd2 (BitVec.ofNat 128 ((s.reg rs1).toNat * (s.reg rs2).toNat / 2 ^ 128)) ∧
    CompletesSetting2 (.mulsf rd rd2 rs1 rs2) s rd (s.reg rs1 * s.reg rs2)
      rd2 (BitVec.ofInt 128 ((s.reg rs1).toInt * (s.reg rs2).toInt / 2 ^ 128))

/-! ## Divider (44_divide.md) -/

/-- R94, an inference of the spec from R93: the fast paths and the long division by aligned
subtraction, within their bounds of 128 outer steps of 3 subtractions, give the floor quotient and
the remainder. -/
def Obligations.UnsignedDividerIsExact : Prop :=
  ∀ a b : Word, b.toNat ≠ 0 →
    (udivmod a b).1.toNat = a.toNat / b.toNat ∧ (udivmod a b).2.toNat = a.toNat % b.toNat

/-- R96, an inference of the spec from R94 and R95: the signed quotient is rounded toward zero, the
remainder has the dividend's sign, except for SMIN / MINUS1. -/
def Obligations.SignedDividerTruncates : Prop :=
  ∀ a b : Word, b ≠ zero → ¬(a = smin ∧ b = minus1) →
    (sdivmod a b).1.toInt = a.toInt.tdiv b.toInt ∧
    (sdivmod a b).2.toInt = a.toInt - (sdivmod a b).1.toInt * b.toInt ∧
    (sdivmod a b).2.toInt.natAbs < b.toInt.natAbs ∧
    ((sdivmod a b).2.toInt = 0 ∨ ((sdivmod a b).2.toInt < 0 ↔ a.toInt < 0))

/-- R98, R99: DIVU and DIVS write quotient and remainder; a zero divisor raises DIV_BY_ZERO, and
SMIN / MINUS1 raises OVERFLOW in DIVS (the spec's own decision D19, log 16). RD = RD2 not 0 does not decode
(EqualDestinationsRaiseIllegalCommand). -/
def Obligations.CheckedDividesCompleteOrFault : Prop :=
  ∀ (rd rd2 rs1 rs2 : Reg) (s : State), (rd = 0 ∨ rd ≠ rd2) →
    EncodedAs 0x40#8 rd rd2 rs1 rs2 0#8 (.divu rd rd2 rs1 rs2) ∧
    EncodedAs 0x41#8 rd rd2 rs1 rs2 0#8 (.divs rd rd2 rs1 rs2) ∧
    (s.reg rs2 = zero → TakesFault (.divu rd rd2 rs1 rs2) s .divByZero ∧
      TakesFault (.divs rd rd2 rs1 rs2) s .divByZero) ∧
    (s.reg rs2 ≠ zero → CompletesSetting2 (.divu rd rd2 rs1 rs2) s
      rd (BitVec.ofNat 128 ((s.reg rs1).toNat / (s.reg rs2).toNat))
      rd2 (BitVec.ofNat 128 ((s.reg rs1).toNat % (s.reg rs2).toNat))) ∧
    (s.reg rs1 = smin ∧ s.reg rs2 = minus1 → TakesFault (.divs rd rd2 rs1 rs2) s .overflow) ∧
    (s.reg rs2 ≠ zero → ¬(s.reg rs1 = smin ∧ s.reg rs2 = minus1) →
      CompletesSetting2 (.divs rd rd2 rs1 rs2) s
        rd (BitVec.ofInt 128 ((s.reg rs1).toInt.tdiv (s.reg rs2).toInt))
        rd2 (BitVec.ofInt 128 ((s.reg rs1).toInt.tmod (s.reg rs2).toInt)))

/-- R97, R100, R101: DIVUO and DIVSO always complete; a zero divisor gives the dividend twice with O
= 1; DIVSO of SMIN / MINUS1 gives (SMIN, ZERO) with O = 1 (the spec's own decision D19, "from
general knowledge, not in source"); otherwise O = 0. -/
def Obligations.ReportingDividesCompleteWithO : Prop :=
  ∀ (rd rd2 rs1 rs2 : Reg) (s : State), (rd = 0 ∨ rd ≠ rd2) →
    EncodedAs 0x42#8 rd rd2 rs1 rs2 0#8 (.divuo rd rd2 rs1 rs2) ∧
    EncodedAs 0x43#8 rd rd2 rs1 rs2 0#8 (.divso rd rd2 rs1 rs2) ∧
    (s.reg rs2 = zero →
      CompletesReporting2 (.divuo rd rd2 rs1 rs2) s rd (s.reg rs1) rd2 (s.reg rs1) true ∧
      CompletesReporting2 (.divso rd rd2 rs1 rs2) s rd (s.reg rs1) rd2 (s.reg rs1) true) ∧
    (s.reg rs2 ≠ zero → CompletesReporting2 (.divuo rd rd2 rs1 rs2) s
      rd (BitVec.ofNat 128 ((s.reg rs1).toNat / (s.reg rs2).toNat))
      rd2 (BitVec.ofNat 128 ((s.reg rs1).toNat % (s.reg rs2).toNat)) false) ∧
    (s.reg rs1 = smin ∧ s.reg rs2 = minus1 →
      CompletesReporting2 (.divso rd rd2 rs1 rs2) s rd smin rd2 zero true) ∧
    (s.reg rs2 ≠ zero → ¬(s.reg rs1 = smin ∧ s.reg rs2 = minus1) →
      CompletesReporting2 (.divso rd rd2 rs1 rs2) s
        rd (BitVec.ofInt 128 ((s.reg rs1).toInt.tdiv (s.reg rs2).toInt))
        rd2 (BitVec.ofInt 128 ((s.reg rs1).toInt.tmod (s.reg rs2).toInt)) false)

/-- R102: every word 0x44xxxxxx is DIVFW, whose effect is to raise UNSUPPORTED, always. -/
def Obligations.FullWidthDivideRaisesUnsupported : Prop :=
  (∀ (rd rd2 rs1 rs2 : Reg) (imm : Byte), EncodedAs 0x44#8 rd rd2 rs1 rs2 imm .divfw) ∧
  ∀ s : State, TakesFault .divfw s .unsupported

/-! ## Logic, shifts and compare (45_logic_shift_compare.md) -/

/-- R103, R104, R105, R106: AND, OR, XOR and NOT act bit by bit on the whole value. -/
def Obligations.BitwiseCommandsComplete : Prop :=
  ∀ (rd rs1 rs2 : Reg) (s : State),
    EncodedAs 0x50#8 rd 0 rs1 rs2 0#8 (.and rd rs1 rs2) ∧
    EncodedAs 0x51#8 rd 0 rs1 rs2 0#8 (.or rd rs1 rs2) ∧
    EncodedAs 0x52#8 rd 0 rs1 rs2 0#8 (.xor rd rs1 rs2) ∧
    EncodedAs 0x53#8 rd 0 rs1 0 0#8 (.not rd rs1) ∧
    CompletesSetting (.and rd rs1 rs2) s rd (s.reg rs1 &&& s.reg rs2) ∧
    CompletesSetting (.or rd rs1 rs2) s rd (s.reg rs1 ||| s.reg rs2) ∧
    CompletesSetting (.xor rd rs1 rs2) s rd (s.reg rs1 ^^^ s.reg rs2) ∧
    CompletesSetting (.not rd rs1) s rd (~~~(s.reg rs1))

/-- R109, R110, R111 over the data paths of R108: the saturating shifts give the product with 2ⁿ, the
floor of the unsigned, respectively signed, quotient by 2ⁿ; ZERO from 128 on, of a negative value
too. The results are R108's, which the spec derives; SRA's data path is the spec's own reading (D17:
"from general knowledge, not in source"). -/
def Obligations.SaturatingShiftsComplete : Prop :=
  ∀ (rd rs1 rs2 : Reg) (s : State) (n : Nat), n = (s.reg rs2).toNat →
    EncodedAs 0x58#8 rd 0 rs1 rs2 0#8 (.sll rd rs1 rs2) ∧
    EncodedAs 0x59#8 rd 0 rs1 rs2 0#8 (.srl rd rs1 rs2) ∧
    EncodedAs 0x5A#8 rd 0 rs1 rs2 0#8 (.sra rd rs1 rs2) ∧
    (128 ≤ n → CompletesSetting (.sll rd rs1 rs2) s rd zero ∧
      CompletesSetting (.srl rd rs1 rs2) s rd zero ∧
      CompletesSetting (.sra rd rs1 rs2) s rd zero) ∧
    (n < 128 →
      CompletesSetting (.sll rd rs1 rs2) s rd (BitVec.ofNat 128 ((s.reg rs1).toNat * 2 ^ n)) ∧
      CompletesSetting (.srl rd rs1 rs2) s rd (BitVec.ofNat 128 ((s.reg rs1).toNat / 2 ^ n)) ∧
      CompletesSetting (.sra rd rs1 rs2) s rd (BitVec.ofInt 128 ((s.reg rs1).toInt / 2 ^ n)))

/-- R112, R113, R114 over R108: the masked shifts shift by the amount modulo 128. SRAM's data path is
the spec's own reading (D17). -/
def Obligations.MaskedShiftsComplete : Prop :=
  ∀ (rd rs1 rs2 : Reg) (s : State) (k : Nat), k = (s.reg rs2).toNat % 128 →
    EncodedAs 0x5C#8 rd 0 rs1 rs2 0#8 (.sllm rd rs1 rs2) ∧
    EncodedAs 0x5D#8 rd 0 rs1 rs2 0#8 (.srlm rd rs1 rs2) ∧
    EncodedAs 0x5E#8 rd 0 rs1 rs2 0#8 (.sram rd rs1 rs2) ∧
    CompletesSetting (.sllm rd rs1 rs2) s rd (BitVec.ofNat 128 ((s.reg rs1).toNat * 2 ^ k)) ∧
    CompletesSetting (.srlm rd rs1 rs2) s rd (BitVec.ofNat 128 ((s.reg rs1).toNat / 2 ^ k)) ∧
    CompletesSetting (.sram rd rs1 rs2) s rd (BitVec.ofInt 128 ((s.reg rs1).toInt / 2 ^ k))

/-- R116, R117: CMPU and CMPS set LT and EQ from the unsigned, respectively signed, order; O, A and
every register are unchanged. -/
def Obligations.ComparesComplete : Prop :=
  ∀ (rs1 rs2 : Reg) (s : State),
    EncodedAs 0x60#8 0 0 rs1 rs2 0#8 (.cmpu rs1 rs2) ∧
    EncodedAs 0x61#8 0 0 rs1 rs2 0#8 (.cmps rs1 rs2) ∧
    (∃ t, exec (.cmpu rs1 rs2) s = .next t ∧ KeepsRegs s t ∧ KeepsRest s t ∧
      t.flags = { s.flags with
        lt := decide ((s.reg rs1).toNat < (s.reg rs2).toNat),
        eq := decide (s.reg rs1 = s.reg rs2) }) ∧
    (∃ t, exec (.cmps rs1 rs2) s = .next t ∧ KeepsRegs s t ∧ KeepsRest s t ∧
      t.flags = { s.flags with
        lt := decide ((s.reg rs1).toInt < (s.reg rs2).toInt),
        eq := decide (s.reg rs1 = s.reg rs2) })

/-! ## Text codec (46_text_codec.md) -/

/-- R126, R127: TWR stores DATA_IN[7:0] at its address and changes no other byte; TRD reads a byte,
zero-extended, into DATA_OUT. -/
def Obligations.TextByteWriteAndReadComplete : Prop :=
  ∀ (addr : Byte) (s : State),
    EncodedAs 0x70#8 0 0 0 0 addr (.twr addr) ∧ EncodedAs 0x71#8 0 0 0 0 addr (.trd addr) ∧
    (∃ t, exec (.twr addr) s = .next t ∧ KeepsRegs s t ∧ t.flags = s.flags ∧
      t.status = s.status ∧ t.dataOut = s.dataOut ∧ t.tlen = s.tlen ∧ KeepsOwn s t ∧
      ∀ a, t.readTxt a = if a = addr.toNat then s.dataIn.extractLsb' 0 8 else s.readTxt a) ∧
    CompletesReading (.trd addr) s (BitVec.ofNat 64 (s.readTxt addr.toNat).toNat) s.flags

/-- R128, R129: TSETLEN takes a length up to 256 into TLEN and raises INDEX_RANGE above; TGETLEN reads
TLEN into DATA_OUT. -/
def Obligations.TextLengthCommandsComplete : Prop :=
  EncodedAs 0x72#8 0 0 0 0 0#8 .tsetlen ∧ EncodedAs 0x73#8 0 0 0 0 0#8 .tgetlen ∧
  ∀ s : State,
    (s.dataIn.toNat ≤ 256 → ∃ t, exec .tsetlen s = .next t ∧ t.tlen.toNat = s.dataIn.toNat ∧
      KeepsRegs s t ∧ t.flags = s.flags ∧ t.status = s.status ∧ t.dataOut = s.dataOut ∧
      KeepsTxt s t ∧ KeepsOwn s t) ∧
    (256 < s.dataIn.toNat → TakesFault .tsetlen s .indexRange) ∧
    CompletesReading .tgetlen s (BitVec.ofNat 64 s.tlen.toNat) s.flags

/-- R122, an inference of the spec from R118 and R121: what the parser accepts, and the value it
gives. -/
def Obligations.ParserAcceptsExactlyTheNumerals : Prop :=
  ∀ (signed : Bool) (radix : Nat) (text : List Byte) (v : Word), 2 ≤ radix → radix ≤ 36 →
    (parseText signed radix text = some v ↔
      ∃ (sign digits : List Byte), text = sign ++ digits ∧ digits ≠ [] ∧
        (∀ c ∈ digits, IsDigit radix c) ∧
        ((sign = [] ∨ sign = [plusChar]) ∧
            (if signed then spelled radix digits ≤ 2 ^ 127 - 1 ∧ v.toInt = spelled radix digits
             else spelled radix digits ≤ 2 ^ 128 - 1 ∧ v.toNat = spelled radix digits) ∨
          signed = true ∧ sign = [minusChar] ∧ spelled radix digits ≤ 2 ^ 127 ∧
            v.toInt = -(spelled radix digits : Int)))

/-- R130, R131 with R120: PARSEU and PARSES check the radix first; a PRESENT value is written with
A = 0, an ABSENT parse sets A and keeps `x[RD]`. That a TLEN above 256, which the invariant rules out,
stops the machine by name is the model's own stop (log 10, DEDUCED), which no rule states. -/
def Obligations.ParseCommandsComplete : Prop :=
  ∀ (rd : Reg) (radix : Byte) (s : State) (signed : Bool) (i : Instr),
    (signed = false ∧ i = .parseu rd radix ∨ signed = true ∧ i = .parses rd radix) →
    EncodedAs (if signed then 0x75#8 else 0x74#8) rd 0 0 0 radix i ∧
    (¬(2 ≤ radix.toNat ∧ radix.toNat ≤ 36) → TakesFault i s .badRadix) ∧
    (2 ≤ radix.toNat → radix.toNat ≤ 36 → 256 < s.tlen.toNat → exec i s = .fault .txtAddress) ∧
    (2 ≤ radix.toNat → radix.toNat ≤ 36 → s.tlen.toNat ≤ 256 →
      (∀ v, parseText signed radix.toNat s.text = some v →
        ∃ t, exec i s = .next t ∧ RegsSet s t rd v ∧ t.flags = { s.flags with a := false } ∧
          KeepsRest s t) ∧
      (parseText signed radix.toNat s.text = none →
        ∃ t, exec i s = .next t ∧ KeepsRegs s t ∧ t.flags = { s.flags with a := true } ∧
          KeepsRest s t))

/-- R123, R119, R124: the formatted text is '-' for a negative signed value, then lowercase digits
spelling the magnitude, with no leading zero but for the value zero, at most 129 characters in all.
Lowercase is the spec's own choice (R119, D22). -/
def Obligations.FormattedTextSpellsTheValue : Prop :=
  ∀ (signed : Bool) (radix : Nat) (x : Word), 2 ≤ radix → radix ≤ 36 →
    ∃ digits : List Byte,
      formatText signed radix x =
        (if signed = true ∧ x.toInt < 0 then minusChar :: digits else digits) ∧
      digits ≠ [] ∧ (∀ c ∈ digits, IsDigit radix c ∧ lowerCase c = c) ∧
      spelled radix digits = (if signed then x.toInt.natAbs else x.toNat) ∧
      (digits.head? = some 0x30#8 → digits = [0x30#8]) ∧
      (formatText signed radix x).length ≤ 129

/-- R132, R133 with R120: FMTU and FMTS check the radix first, then write the text into TXT from
address 0 and its length into TLEN; the bytes beyond, and all else, keep their values. -/
def Obligations.FormatCommandsComplete : Prop :=
  ∀ (rs1 : Reg) (radix : Byte) (s : State) (signed : Bool) (i : Instr),
    (signed = false ∧ i = .fmtu rs1 radix ∨ signed = true ∧ i = .fmts rs1 radix) →
    EncodedAs (if signed then 0x77#8 else 0x76#8) 0 0 rs1 0 radix i ∧
    (¬(2 ≤ radix.toNat ∧ radix.toNat ≤ 36) → TakesFault i s .badRadix) ∧
    (2 ≤ radix.toNat → radix.toNat ≤ 36 →
      ∀ out, out = formatText signed radix.toNat (s.reg rs1) →
      ∃ t, exec i s = .next t ∧ KeepsRegs s t ∧ t.flags = s.flags ∧ t.status = s.status ∧
        t.dataOut = s.dataOut ∧ KeepsOwn s t ∧ t.tlen.toNat = out.length ∧
        ∀ a, t.readTxt a = if h : a < out.length then out[a] else s.readTxt a)

/-- R125, first half, an inference of the spec from R122 and R123: FMTU (or FMTS) followed by PARSEU
(or PARSES) at the same radix, with TLEN as the format left it, gives the value back with A = 0. -/
def Obligations.ParseAfterFormatGivesTheValueBack : Prop :=
  ∀ (rs1 rd : Reg) (radix : Byte) (s t : State), 2 ≤ radix.toNat → radix.toNat ≤ 36 →
    (exec (.fmtu rs1 radix) s = .next t →
      ∃ u, exec (.parseu rd radix) t = .next u ∧ u.flags.a = false ∧
        RegsSet t u rd (s.reg rs1)) ∧
    (exec (.fmts rs1 radix) s = .next t →
      ∃ u, exec (.parses rd radix) t = .next u ∧ u.flags.a = false ∧
        RegsSet t u rd (s.reg rs1))

/-- R125, second half, an inference of the spec (90_conflicts.md C5): the format of a parsed text is
the text with '+' and leading zeros removed and letters in lowercase. -/
def Obligations.FormatAfterParseNormalisesTheText : Prop :=
  ∀ (signed : Bool) (radix : Nat) (text : List Byte) (v : Word), 2 ≤ radix → radix ≤ 36 →
    parseText signed radix text = some v → formatText signed radix v = normalText signed text

/-! ## Transfer and control (47_transfer_control.md) -/

/-- R134, R135: NOP changes no state, and any other word with opcode 0x00 is ILLEGAL_COMMAND; RDFLAGS
reads FLAGS, bits 0 O, 1 LT, 2 EQ, 3 A, into DATA_OUT. -/
def Obligations.NopAndReadFlagsComplete : Prop :=
  EncodedAs 0x00#8 0 0 0 0 0#8 .nop ∧ EncodedAs 0x01#8 0 0 0 0 0#8 .rdflags ∧
  (∀ w : CmdWord, opcField w = 0x00#8 → w ≠ 0#32 → RaisesIllegal w) ∧
  ∀ s : State, exec .nop s = .next s ∧
    CompletesReading .rdflags s (BitVec.ofNat 64 (s.flags.o.toNat + 2 * s.flags.lt.toNat
      + 4 * s.flags.eq.toNat + 8 * s.flags.a.toNat)) s.flags

/-- R136, R137, R138, R139: LDLO and LDHI replace one half and keep the other; LDU and LDS extend
DATA_IN with zeros, respectively with its sign. -/
def Obligations.LoadsComplete : Prop :=
  ∀ (rd : Reg) (s : State),
    EncodedAs 0x10#8 rd 0 0 0 0#8 (.ldlo rd) ∧ EncodedAs 0x11#8 rd 0 0 0 0#8 (.ldhi rd) ∧
    EncodedAs 0x12#8 rd 0 0 0 0#8 (.ldu rd) ∧ EncodedAs 0x13#8 rd 0 0 0 0#8 (.lds rd) ∧
    CompletesSetting (.ldlo rd) s rd
      (BitVec.ofNat 128 ((s.reg rd).toNat / 2 ^ 64 * 2 ^ 64 + s.dataIn.toNat)) ∧
    CompletesSetting (.ldhi rd) s rd
      (BitVec.ofNat 128 (s.dataIn.toNat * 2 ^ 64 + (s.reg rd).toNat % 2 ^ 64)) ∧
    CompletesSetting (.ldu rd) s rd (BitVec.ofNat 128 s.dataIn.toNat) ∧
    CompletesSetting (.lds rd) s rd (BitVec.ofInt 128 s.dataIn.toInt)

/-- R140, R141: LDUS takes a DATA_IN that is not negative and raises NEGATIVE_TO_UNSIGNED else; LDBIT
sets the one bit named and raises BAD_BIT_INDEX outside [0, 128). -/
def Obligations.CheckedLoadsCompleteOrFault : Prop :=
  ∀ (rd : Reg) (s : State),
    EncodedAs 0x14#8 rd 0 0 0 0#8 (.ldus rd) ∧ EncodedAs 0x15#8 rd 0 0 0 0#8 (.ldbit rd) ∧
    (0 ≤ s.dataIn.toInt →
      CompletesSetting (.ldus rd) s rd (BitVec.ofNat 128 s.dataIn.toNat)) ∧
    (s.dataIn.toInt < 0 → TakesFault (.ldus rd) s .negativeToUnsigned) ∧
    (0 ≤ s.dataIn.toInt → s.dataIn.toInt ≤ 127 →
      CompletesSetting (.ldbit rd) s rd (BitVec.ofNat 128 (2 ^ s.dataIn.toNat))) ∧
    (s.dataIn.toInt < 0 ∨ 127 < s.dataIn.toInt → TakesFault (.ldbit rd) s .badBitIndex)

/-- R142, R143: RDLO and RDHI read one half into DATA_OUT. -/
def Obligations.HalfReadsComplete : Prop :=
  ∀ (rs1 : Reg) (s : State),
    EncodedAs 0x16#8 0 0 rs1 0 0#8 (.rdlo rs1) ∧ EncodedAs 0x17#8 0 0 rs1 0 0#8 (.rdhi rs1) ∧
    CompletesReading (.rdlo rs1) s (BitVec.ofNat 64 ((s.reg rs1).toNat % 2 ^ 64)) s.flags ∧
    CompletesReading (.rdhi rs1) s (BitVec.ofNat 64 ((s.reg rs1).toNat / 2 ^ 64)) s.flags

/-- R144, R145: WORD reads word `k` of the decomposition for either NATIVE_WIDTH, least significant
word first, and raises INDEX_RANGE for an index at or above the count. -/
def Obligations.WordReadCompletesOrFaults : Prop :=
  ∀ (rs1 : Reg) (k : Byte) (s : State) (width count : Nat),
    (s.nativeWidth = .w64 ∧ width = 64 ∧ count = 2 ∨
      s.nativeWidth = .w32 ∧ width = 32 ∧ count = 4) →
    EncodedAs 0x18#8 0 0 rs1 0 k (.word rs1 k) ∧
    (k.toNat < count → CompletesReading (.word rs1 k) s
      (BitVec.ofNat 64 ((s.reg rs1).toNat / 2 ^ (width * k.toNat) % 2 ^ width)) s.flags) ∧
    (count ≤ k.toNat → TakesFault (.word rs1 k) s .indexRange)

/-- R146, R147: CVT gives the source value, extended to the bus, with A = 0 where it fits the target,
and 0 with A = 1 where it does not. -/
def Obligations.ConversionCompletes : Prop :=
  ∀ (rs1 : Reg) (width : CvtWidth) (ts ss : Bool) (s : State) (w : Nat) (v : Int),
    (width = .w8 ∧ w = 8 ∨ width = .w16 ∧ w = 16 ∨ width = .w32 ∧ w = 32 ∨ width = .w64 ∧ w = 64) →
    v = (if ss then (s.reg rs1).toInt else ((s.reg rs1).toNat : Int)) →
    (∀ sel : Byte, sel.toNat = (w.log2 - 3) + 4 * ts.toNat + 8 * ss.toNat →
      EncodedAs 0x19#8 0 0 rs1 0 sel (.cvt rs1 width ts ss)) ∧
    ((if ts then -2 ^ (w - 1) ≤ v ∧ v ≤ 2 ^ (w - 1) - 1 else 0 ≤ v ∧ v ≤ 2 ^ w - 1) →
      CompletesReading (.cvt rs1 width ts ss) s (BitVec.ofInt 64 v)
        { s.flags with a := false }) ∧
    (¬(if ts then -2 ^ (w - 1) ≤ v ∧ v ≤ 2 ^ (w - 1) - 1 else 0 ≤ v ∧ v ≤ 2 ^ w - 1) →
      CompletesReading (.cvt rs1 width ts ss) s 0#64 { s.flags with a := true })
end

