-- ==== Sys2Proof/Laws/Arith.lean ====
section
/-! SUPPORT. What the shared data paths compute: halves and readings (00_scope.md R10, R11), the adder
and the subtractor (41_addsub.md R62, R64, R65), the sign bridge (42_sign_bridge.md R77, R78) and the
comparators (45_logic_shift_compare.md R115). Later proofs cite these and do not unfold the paths. -/

namespace Sys2Proof.Machine

/-! ## Halves -/

theorem toNat_halves (h l : Half) : (halves h l).toNat = h.toNat * 2 ^ 64 + l.toNat := by
  unfold halves
  rw [BitVec.toNat_append, ← Nat.shiftLeft_add_eq_or_of_lt l.isLt, Nat.shiftLeft_eq]

theorem toNat_hi (x : Word) : (hi x).toNat = x.toNat / 2 ^ 64 := by
  have hx := x.isLt
  simp only [hi, BitVec.extractLsb'_toNat, Nat.shiftRight_eq_div_pow]
  exact Nat.mod_eq_of_lt (by omega)

theorem toNat_lo (x : Word) : (lo x).toNat = x.toNat % 2 ^ 64 := by
  simp [lo, BitVec.extractLsb'_toNat]

/-- "value = hi·2⁶⁴ + lo" (R10). -/
theorem toNat_eq_halves (x : Word) : x.toNat = (hi x).toNat * 2 ^ 64 + (lo x).toNat := by
  rw [toNat_hi, toNat_lo]; omega

@[simp] theorem halves_hi_lo (x : Word) : halves (hi x) (lo x) = x := by
  apply BitVec.eq_of_toNat_eq
  rw [toNat_halves, ← toNat_eq_halves]

@[simp] theorem hi_halves (h l : Half) : hi (halves h l) = h := by
  apply BitVec.eq_of_toNat_eq
  have := h.isLt
  have := l.isLt
  rw [toNat_hi, toNat_halves]; omega

@[simp] theorem lo_halves (h l : Half) : lo (halves h l) = l := by
  apply BitVec.eq_of_toNat_eq
  have := h.isLt
  have := l.isLt
  rw [toNat_lo, toNat_halves]; omega

/-- Two values are equal when their halves are. -/
theorem eq_of_halves_eq {x y : Word} (hh : hi x = hi y) (hl : lo x = lo y) : x = y := by
  rw [← halves_hi_lo x, ← halves_hi_lo y, hh, hl]

@[simp] theorem zero_eq : zero = 0#128 := rfl

theorem toNat_smin : smin.toNat = 2 ^ 127 := by decide

theorem toNat_umax : umax.toNat = 2 ^ 128 - 1 := by decide

/-- The signed reading of a value (R11): the unsigned one, less 2¹²⁸ where bit 127 is set. -/
theorem toInt_eq (x : Word) :
    x.toInt = if x.toNat < 2 ^ 127 then (x.toNat : Int) else (x.toNat : Int) - 2 ^ 128 := by
  have hx := x.isLt
  rw [BitVec.toInt_eq_toNat_cond]
  split <;> split <;> omega

/-- "`s({hi, lo}) = s(hi)·2⁶⁴ + u(lo)`" (R11). -/
theorem toInt_eq_halves (x : Word) : x.toInt = (hi x).toInt * 2 ^ 64 + (lo x).toNat := by
  have hx := x.isLt
  have h1 := toNat_hi x
  have h2 := toNat_lo x
  rw [toInt_eq, BitVec.toInt_eq_toNat_cond]
  split <;> split <;> omega

/-! ## Adder and subtractor -/

/-- R62: the sum is `bits_128(u(a) + u(b))`, the carry-out is `u(a) + u(b) >= 2¹²⁸`. -/
theorem uadd128_eq (a b : Word) :
    uadd128 a b = (a + b, decide (2 ^ 128 ≤ a.toNat + b.toNat)) := by
  have ha := toNat_eq_halves a
  have hb := toNat_eq_halves b
  have h1 := (hi a).isLt
  have h2 := (lo a).isLt
  have h3 := (hi b).isLt
  have h4 := (lo b).isLt
  simp only [uadd128, addc64]
  by_cases hc : 2 ^ 64 ≤ (lo a).toNat + (lo b).toNat
  · simp only [hc, decide_true, if_true, BitVec.toNat_ofNat]
    refine Prod.ext (BitVec.eq_of_toNat_eq ?_) (Bool.eq_iff_iff.mpr ?_)
    · simp only [toNat_halves, BitVec.toNat_add, BitVec.toNat_ofNat]
      omega
    · simp only [Bool.or_eq_true, decide_eq_true_eq]
      omega
  · simp only [hc, decide_false, Bool.false_eq_true, if_false, Bool.or_false]
    refine Prod.ext (BitVec.eq_of_toNat_eq ?_) (Bool.eq_iff_iff.mpr ?_)
    · simp only [toNat_halves, BitVec.toNat_add, BitVec.toNat_ofNat]
      omega
    · simp only [decide_eq_true_eq]
      omega

/-- The native subtractor's difference, as a number. -/
theorem subb64_toNat (p q : Half) :
    (subb64 p q).1.toNat = if p.toNat < q.toNat then p.toNat + 2 ^ 64 - q.toNat
      else p.toNat - q.toNat := by
  have hp := p.isLt
  have hq := q.isLt
  simp only [subb64, BitVec.toNat_ofInt]
  split <;> omega

/-- R64: the difference is `bits_128(u(a) - u(b))`, the borrow-out is `u(a) < u(b)`. -/
theorem usub128_eq (a b : Word) : usub128 a b = (a - b, decide (a.toNat < b.toNat)) := by
  have ha := toNat_eq_halves a
  have hb := toNat_eq_halves b
  have h1 := (hi a).isLt
  have h2 := (lo a).isLt
  have h3 := (hi b).isLt
  have h4 := (lo b).isLt
  have e1 := subb64_toNat (lo a) (lo b)
  have e2 := subb64_toNat (hi a) 1#64
  have k1 : (1#64 : Half).toNat = 1 := rfl
  rw [k1] at e2
  simp only [usub128]
  by_cases hc : (lo a).toNat < (lo b).toNat
  · have e3 := subb64_toNat (subb64 (hi a) 1#64).1 (hi b)
    have hb0 : (subb64 (lo a) (lo b)).2 = true := by simp [subb64, hc]
    simp only [hb0, if_true]
    refine Prod.ext (BitVec.eq_of_toNat_eq ?_) (Bool.eq_iff_iff.mpr ?_)
    · simp only [toNat_halves, BitVec.toNat_sub]
      rw [if_pos hc] at e1
      rw [e1, e3]
      rw [e2]
      split <;> split <;> omega
    · have f2 : (subb64 (hi a) 1#64).2 = decide ((hi a).toNat < 1) := rfl
      have f3 : (subb64 (subb64 (hi a) 1#64).1 (hi b)).2
          = decide ((subb64 (hi a) 1#64).1.toNat < (hi b).toNat) := rfl
      rw [f2, f3, e2]
      simp only [Bool.or_eq_true, decide_eq_true_eq]
      split <;> omega
  · have e3 := subb64_toNat (hi a) (hi b)
    have hb0 : (subb64 (lo a) (lo b)).2 = false := by simp [subb64, hc]
    simp only [hb0, Bool.false_eq_true, if_false, Bool.false_or]
    refine Prod.ext (BitVec.eq_of_toNat_eq ?_) (Bool.eq_iff_iff.mpr ?_)
    · simp only [toNat_halves, BitVec.toNat_sub]
      rw [if_neg hc] at e1
      rw [e1, e3]
      split <;> omega
    · have f3 : (subb64 (hi a) (hi b)).2 = decide ((hi a).toNat < (hi b).toNat) := rfl
      rw [f3]
      simp only [decide_eq_true_eq]
      omega

/-- An integer outside the signed 128-bit range [-2¹²⁷, 2¹²⁷ - 1] (R16). -/
def outside128 (n : Int) : Bool := decide (n < -2 ^ 127) || decide (2 ^ 127 - 1 < n)

/-- R65: signed overflow of an addition is exact. -/
theorem saddOvf128_eq (a b : Word) : saddOvf128 a b = outside128 (a.toInt + b.toInt) := by
  have ha := toInt_eq_halves a
  have hb := toInt_eq_halves b
  have h2 := (lo a).isLt
  have h4 := (lo b).isLt
  simp only [saddOvf128, saddOv64, outside64, outside128, addc64]
  rw [Bool.eq_iff_iff]
  simp only [Bool.or_eq_true, decide_eq_true_eq]
  by_cases hc : 2 ^ 64 ≤ (lo a).toNat + (lo b).toNat
  · simp only [hc, decide_true, Bool.toInt_true, decide_eq_true_eq]
    omega
  · simp only [hc, decide_false, Bool.toInt_false, decide_eq_true_eq]
    omega

/-- R65: signed overflow of a subtraction is exact. -/
theorem ssubOvf128_eq (a b : Word) : ssubOvf128 a b = outside128 (a.toInt - b.toInt) := by
  have ha := toInt_eq_halves a
  have hb := toInt_eq_halves b
  have h2 := (lo a).isLt
  have h4 := (lo b).isLt
  simp only [ssubOvf128, ssubOv64, outside64, outside128, subb64]
  rw [Bool.eq_iff_iff]
  simp only [Bool.or_eq_true, decide_eq_true_eq]
  by_cases hc : (lo a).toNat < (lo b).toNat
  · simp only [hc, decide_true, Bool.toInt_true, decide_eq_true_eq]
    omega
  · simp only [hc, decide_false, Bool.toInt_false, decide_eq_true_eq]
    omega

/-! ## Sign bridge -/

/-- R76: the sign bit is set exactly for the negative values. -/
theorem signBit_eq (x : Word) : signBit x = decide (x.toInt < 0) := by
  have hx := x.isLt
  rw [Bool.eq_iff_iff, decide_eq_true_eq, toInt_eq, signBit, BitVec.getLsbD,
    Nat.testBit_eq_decide_div_mod_eq, decide_eq_true_eq]
  split <;> omega

/-- R77: "`u(mag(x)) = abs(s(x))`", SMIN included. -/
theorem toNat_mag (x : Word) : (mag x).toNat = x.toInt.natAbs := by
  have hx := x.isLt
  have hi := toInt_eq x
  unfold mag
  rw [signBit_eq]
  by_cases hn : x.toInt < 0
  · simp only [hn, decide_true, if_true]
    by_cases hs : x = smin
    · subst hs; decide
    · rw [if_neg hs]
      simp only [bits128i, BitVec.toNat_ofInt]
      have : x.toNat ≠ 2 ^ 127 := fun e => hs (BitVec.eq_of_toNat_eq (by rw [e, toNat_smin]))
      split at hi <;> omega
  · simp only [hn, decide_false, Bool.false_eq_true, if_false]
    split at hi <;> omega

/-- R78: the wrapping negation of a magnitude. -/
theorem toNat_applySign_neg (m : Word) : (applySign m true).toNat = (2 ^ 128 - m.toNat) % 2 ^ 128 := by
  have hm := m.isLt
  simp only [applySign, if_true, bits128i, BitVec.toNat_ofInt]
  omega

/-- R78: the signed value of a magnitude with its sign, where the signed range holds it. -/
theorem toInt_applySign (m : Word) (neg : Bool)
    (h : if neg then m.toNat ≤ 2 ^ 127 else m.toNat < 2 ^ 127) :
    (applySign m neg).toInt = if neg then -(m.toNat : Int) else m.toNat := by
  have hm := m.isLt
  cases neg with
  | false =>
    simp only [Bool.false_eq_true, if_false] at h ⊢
    simp only [applySign, Bool.false_eq_true, if_false]
    rw [toInt_eq, if_pos h]
  | true =>
    simp only [if_true] at h ⊢
    rw [toInt_eq, toNat_applySign_neg]
    split <;> omega

/-! ## Comparators -/

/-- R115: `ult(a, b) = (u(a) < u(b))`. -/
theorem ult_eq (a b : Word) : ult a b = decide (a.toNat < b.toNat) := by
  have ha := toNat_eq_halves a
  have hb := toNat_eq_halves b
  have h2 := (lo a).isLt
  have h4 := (lo b).isLt
  rw [Bool.eq_iff_iff]
  simp only [ult, Bool.or_eq_true, Bool.and_eq_true, decide_eq_true_eq, BitVec.toNat_eq]
  omega

/-- R115: `slt(a, b) = (s(a) < s(b))`. -/
theorem slt_eq (a b : Word) : slt a b = decide (a.toInt < b.toInt) := by
  have ha := toInt_eq_halves a
  have hb := toInt_eq_halves b
  have h2 := (lo a).isLt
  have h4 := (lo b).isLt
  rw [Bool.eq_iff_iff]
  simp only [slt, Bool.or_eq_true, Bool.and_eq_true, decide_eq_true_eq, ← BitVec.toInt_inj]
  omega

/-- R115: equality of both halves is equality. -/
theorem equal_eq (a b : Word) : equal a b = decide (a = b) := by
  rw [Bool.eq_iff_iff]
  simp only [equal, Bool.and_eq_true, decide_eq_true_eq]
  constructor
  · rintro ⟨h1, h2⟩; exact eq_of_halves_eq h1 h2
  · rintro rfl; exact ⟨rfl, rfl⟩

end Sys2Proof.Machine
end

