-- ==== Sys2Proof/Laws/Encoding.lean ====
section
/-! SUPPORT. The fields of a packed word (30_encoding.md R50): each field reads back as it was put in.
Decoding a word written as `pack …` then reduces by these lemmas. -/

namespace Sys2Proof

theorem toNat_append_eq {n m : Nat} (x : BitVec n) (y : BitVec m) :
    (x ++ y).toNat = x.toNat * 2 ^ m + y.toNat := by
  rw [BitVec.toNat_append, ← Nat.shiftLeft_add_eq_or_of_lt y.isLt, Nat.shiftLeft_eq]

/-- The word of given fields, as a number. -/
theorem toNat_pack (opc : BitVec 8) (rd rd2 rs1 rs2 : Reg) (imm : Byte) :
    (pack opc rd rd2 rs1 rs2 imm).toNat =
      opc.toNat * 2 ^ 24 + rd.val * 2 ^ 20 + rd2.val * 2 ^ 16 + rs1.val * 2 ^ 12 + rs2.val * 2 ^ 8
        + imm.toNat := by
  have h1 := rd.isLt
  have h2 := rd2.isLt
  have h3 := rs1.isLt
  have h4 := rs2.isLt
  simp only [pack, toNat_append_eq, BitVec.toNat_ofNat]
  omega

/-- Every word is its six fields packed. -/
theorem pack_fields (w : CmdWord) :
    pack (opcField w) (rdField w) (rd2Field w) (rs1Field w) (rs2Field w) (immField w) = w := by
  have hw := w.isLt
  apply BitVec.eq_of_toNat_eq
  rw [toNat_pack]
  simp only [opcField, rdField, rd2Field, rs1Field, rs2Field, immField, BitVec.extractLsb'_toNat,
    Nat.shiftRight_eq_div_pow, BitVec.val_toFin]
  omega

section
variable (opc : BitVec 8) (rd rd2 rs1 rs2 : Reg) (imm : Byte)

@[simp] theorem opcField_pack : opcField (pack opc rd rd2 rs1 rs2 imm) = opc := by
  have := toNat_pack opc rd rd2 rs1 rs2 imm
  have h0 := opc.isLt
  have h1 := rd.isLt
  have h2 := rd2.isLt
  have h3 := rs1.isLt
  have h4 := rs2.isLt
  have h5 := imm.isLt
  apply BitVec.eq_of_toNat_eq
  rw [opcField, BitVec.extractLsb'_toNat, Nat.shiftRight_eq_div_pow]
  omega

@[simp] theorem rdField_pack : rdField (pack opc rd rd2 rs1 rs2 imm) = rd := by
  have := toNat_pack opc rd rd2 rs1 rs2 imm
  have h1 := rd.isLt
  have h2 := rd2.isLt
  have h3 := rs1.isLt
  have h4 := rs2.isLt
  have h5 := imm.isLt
  apply Fin.ext
  rw [rdField, BitVec.val_toFin, BitVec.extractLsb'_toNat, Nat.shiftRight_eq_div_pow]
  omega

@[simp] theorem rd2Field_pack : rd2Field (pack opc rd rd2 rs1 rs2 imm) = rd2 := by
  have := toNat_pack opc rd rd2 rs1 rs2 imm
  have h2 := rd2.isLt
  have h3 := rs1.isLt
  have h4 := rs2.isLt
  have h5 := imm.isLt
  apply Fin.ext
  rw [rd2Field, BitVec.val_toFin, BitVec.extractLsb'_toNat, Nat.shiftRight_eq_div_pow]
  omega

@[simp] theorem rs1Field_pack : rs1Field (pack opc rd rd2 rs1 rs2 imm) = rs1 := by
  have := toNat_pack opc rd rd2 rs1 rs2 imm
  have h3 := rs1.isLt
  have h4 := rs2.isLt
  have h5 := imm.isLt
  apply Fin.ext
  rw [rs1Field, BitVec.val_toFin, BitVec.extractLsb'_toNat, Nat.shiftRight_eq_div_pow]
  omega

@[simp] theorem rs2Field_pack : rs2Field (pack opc rd rd2 rs1 rs2 imm) = rs2 := by
  have := toNat_pack opc rd rd2 rs1 rs2 imm
  have h4 := rs2.isLt
  have h5 := imm.isLt
  apply Fin.ext
  rw [rs2Field, BitVec.val_toFin, BitVec.extractLsb'_toNat, Nat.shiftRight_eq_div_pow]
  omega

@[simp] theorem immField_pack : immField (pack opc rd rd2 rs1 rs2 imm) = imm := by
  have := toNat_pack opc rd rd2 rs1 rs2 imm
  have h5 := imm.isLt
  apply BitVec.eq_of_toNat_eq
  rw [immField, BitVec.extractLsb'_toNat, Nat.shiftRight_eq_div_pow]
  omega

end

/-- CVT's selector reads back as it was put in (R54). -/
@[simp] theorem cvtImm_high (w : CvtWidth) (ts ss : Bool) :
    (cvtImm w ts ss).extractLsb' 4 4 = 0#4 := by cases w <;> cases ts <;> cases ss <;> decide
@[simp] theorem cvtImm_width (w : CvtWidth) (ts ss : Bool) :
    cvtWidthOf ((cvtImm w ts ss).extractLsb' 0 2) = w := by
  cases w <;> cases ts <;> cases ss <;> decide
@[simp] theorem cvtImm_target (w : CvtWidth) (ts ss : Bool) : (cvtImm w ts ss)[2] = ts := by
  cases w <;> cases ts <;> cases ss <;> decide
@[simp] theorem cvtImm_source (w : CvtWidth) (ts ss : Bool) : (cvtImm w ts ss)[3] = ss := by
  cases w <;> cases ts <;> cases ss <;> decide

end Sys2Proof
end

