-- ==== Sys2Proof/Laws/State.lean ====
section
/-! SUPPORT. One lemma per field and update of the state, so that no later proof unfolds an update; and
the laws of the register file (10_state.md R22, R28). -/

namespace Sys2Proof.Machine

/-! ## What each update leaves alone -/

@[simp] theorem setReg_flags (s : State) (r : Reg) (v : Word) : (s.setReg r v).flags = s.flags := by
  unfold State.setReg; split <;> rfl
@[simp] theorem setReg_status (s : State) (r : Reg) (v : Word) : (s.setReg r v).status = s.status := by
  unfold State.setReg; split <;> rfl
@[simp] theorem setReg_dataOut (s : State) (r : Reg) (v : Word) : (s.setReg r v).dataOut = s.dataOut := by
  unfold State.setReg; split <;> rfl
@[simp] theorem setReg_tlen (s : State) (r : Reg) (v : Word) : (s.setReg r v).tlen = s.tlen := by
  unfold State.setReg; split <;> rfl
@[simp] theorem setReg_txt (s : State) (r : Reg) (v : Word) : (s.setReg r v).txt = s.txt := by
  unfold State.setReg; split <;> rfl
@[simp] theorem setReg_port (s : State) (r : Reg) (v : Word) : (s.setReg r v).port = s.port := by
  unfold State.setReg; split <;> rfl
@[simp] theorem setReg_txtDraw (s : State) (r : Reg) (v : Word) : (s.setReg r v).txtDraw = s.txtDraw := by
  unfold State.setReg; split <;> rfl
@[simp] theorem setReg_nativeWidth (s : State) (r : Reg) (v : Word) :
    (s.setReg r v).nativeWidth = s.nativeWidth := by
  unfold State.setReg; split <;> rfl
@[simp] theorem setReg_readTxt (s : State) (r : Reg) (v : Word) (a : Nat) :
    (s.setReg r v).readTxt a = s.readTxt a := by
  simp [State.readTxt]
@[simp] theorem setReg_cmdWord (s : State) (r : Reg) (v : Word) : (s.setReg r v).cmdWord = s.cmdWord := by
  simp [State.cmdWord, State.presented]
@[simp] theorem setReg_dataIn (s : State) (r : Reg) (v : Word) : (s.setReg r v).dataIn = s.dataIn := by
  simp [State.dataIn, State.presented]

@[simp] theorem setFlags_xs (s : State) (f : Flags) : (s.setFlags f).xs = s.xs := rfl
@[simp] theorem setFlags_flags (s : State) (f : Flags) : (s.setFlags f).flags = f := rfl
@[simp] theorem setFlags_status (s : State) (f : Flags) : (s.setFlags f).status = s.status := rfl
@[simp] theorem setFlags_dataOut (s : State) (f : Flags) : (s.setFlags f).dataOut = s.dataOut := rfl
@[simp] theorem setFlags_tlen (s : State) (f : Flags) : (s.setFlags f).tlen = s.tlen := rfl
@[simp] theorem setFlags_txt (s : State) (f : Flags) : (s.setFlags f).txt = s.txt := rfl
@[simp] theorem setFlags_port (s : State) (f : Flags) : (s.setFlags f).port = s.port := rfl
@[simp] theorem setFlags_txtDraw (s : State) (f : Flags) : (s.setFlags f).txtDraw = s.txtDraw := rfl
@[simp] theorem setFlags_nativeWidth (s : State) (f : Flags) :
    (s.setFlags f).nativeWidth = s.nativeWidth := rfl
@[simp] theorem setFlags_reg (s : State) (f : Flags) (r : Reg) : (s.setFlags f).reg r = s.reg r := rfl
@[simp] theorem setFlags_readTxt (s : State) (f : Flags) (a : Nat) :
    (s.setFlags f).readTxt a = s.readTxt a := rfl

@[simp] theorem setDataOut_xs (s : State) (v : Half) : (s.setDataOut v).xs = s.xs := rfl
@[simp] theorem setDataOut_flags (s : State) (v : Half) : (s.setDataOut v).flags = s.flags := rfl
@[simp] theorem setDataOut_status (s : State) (v : Half) : (s.setDataOut v).status = s.status := rfl
@[simp] theorem setDataOut_dataOut (s : State) (v : Half) : (s.setDataOut v).dataOut = v := rfl
@[simp] theorem setDataOut_tlen (s : State) (v : Half) : (s.setDataOut v).tlen = s.tlen := rfl
@[simp] theorem setDataOut_txt (s : State) (v : Half) : (s.setDataOut v).txt = s.txt := rfl
@[simp] theorem setDataOut_port (s : State) (v : Half) : (s.setDataOut v).port = s.port := rfl
@[simp] theorem setDataOut_txtDraw (s : State) (v : Half) : (s.setDataOut v).txtDraw = s.txtDraw := rfl
@[simp] theorem setDataOut_nativeWidth (s : State) (v : Half) :
    (s.setDataOut v).nativeWidth = s.nativeWidth := rfl
@[simp] theorem setDataOut_reg (s : State) (v : Half) (r : Reg) : (s.setDataOut v).reg r = s.reg r := rfl
@[simp] theorem setDataOut_readTxt (s : State) (v : Half) (a : Nat) :
    (s.setDataOut v).readTxt a = s.readTxt a := rfl

@[simp] theorem setTlen_xs (s : State) (n : BitVec 9) : (s.setTlen n).xs = s.xs := rfl
@[simp] theorem setTlen_flags (s : State) (n : BitVec 9) : (s.setTlen n).flags = s.flags := rfl
@[simp] theorem setTlen_status (s : State) (n : BitVec 9) : (s.setTlen n).status = s.status := rfl
@[simp] theorem setTlen_dataOut (s : State) (n : BitVec 9) : (s.setTlen n).dataOut = s.dataOut := rfl
@[simp] theorem setTlen_tlen (s : State) (n : BitVec 9) : (s.setTlen n).tlen = n := rfl
@[simp] theorem setTlen_txt (s : State) (n : BitVec 9) : (s.setTlen n).txt = s.txt := rfl
@[simp] theorem setTlen_port (s : State) (n : BitVec 9) : (s.setTlen n).port = s.port := rfl
@[simp] theorem setTlen_txtDraw (s : State) (n : BitVec 9) : (s.setTlen n).txtDraw = s.txtDraw := rfl
@[simp] theorem setTlen_nativeWidth (s : State) (n : BitVec 9) :
    (s.setTlen n).nativeWidth = s.nativeWidth := rfl
@[simp] theorem setTlen_reg (s : State) (n : BitVec 9) (r : Reg) : (s.setTlen n).reg r = s.reg r := rfl
@[simp] theorem setTlen_readTxt (s : State) (n : BitVec 9) (a : Nat) :
    (s.setTlen n).readTxt a = s.readTxt a := rfl

@[simp] theorem writeTxt_xs (s : State) (a : Nat) (v : Byte) : (s.writeTxt a v).xs = s.xs := rfl
@[simp] theorem writeTxt_flags (s : State) (a : Nat) (v : Byte) : (s.writeTxt a v).flags = s.flags := rfl
@[simp] theorem writeTxt_status (s : State) (a : Nat) (v : Byte) : (s.writeTxt a v).status = s.status := rfl
@[simp] theorem writeTxt_dataOut (s : State) (a : Nat) (v : Byte) :
    (s.writeTxt a v).dataOut = s.dataOut := rfl
@[simp] theorem writeTxt_tlen (s : State) (a : Nat) (v : Byte) : (s.writeTxt a v).tlen = s.tlen := rfl
@[simp] theorem writeTxt_txt (s : State) (a : Nat) (v : Byte) :
    (s.writeTxt a v).txt = Memory.write s.txt a v := rfl
@[simp] theorem writeTxt_port (s : State) (a : Nat) (v : Byte) : (s.writeTxt a v).port = s.port := rfl
@[simp] theorem writeTxt_txtDraw (s : State) (a : Nat) (v : Byte) :
    (s.writeTxt a v).txtDraw = s.txtDraw := rfl
@[simp] theorem writeTxt_nativeWidth (s : State) (a : Nat) (v : Byte) :
    (s.writeTxt a v).nativeWidth = s.nativeWidth := rfl
@[simp] theorem writeTxt_reg (s : State) (a : Nat) (v : Byte) (r : Reg) :
    (s.writeTxt a v).reg r = s.reg r := rfl

@[simp] theorem writeTextAt0_xs (s : State) (t : List Byte) : (s.writeTextAt0 t).xs = s.xs := rfl
@[simp] theorem writeTextAt0_flags (s : State) (t : List Byte) : (s.writeTextAt0 t).flags = s.flags := rfl
@[simp] theorem writeTextAt0_status (s : State) (t : List Byte) :
    (s.writeTextAt0 t).status = s.status := rfl
@[simp] theorem writeTextAt0_dataOut (s : State) (t : List Byte) :
    (s.writeTextAt0 t).dataOut = s.dataOut := rfl
@[simp] theorem writeTextAt0_tlen (s : State) (t : List Byte) : (s.writeTextAt0 t).tlen = s.tlen := rfl
@[simp] theorem writeTextAt0_txt (s : State) (t : List Byte) :
    (s.writeTextAt0 t).txt = Memory.writeText s.txt 0 t := rfl
@[simp] theorem writeTextAt0_port (s : State) (t : List Byte) : (s.writeTextAt0 t).port = s.port := rfl
@[simp] theorem writeTextAt0_txtDraw (s : State) (t : List Byte) :
    (s.writeTextAt0 t).txtDraw = s.txtDraw := rfl
@[simp] theorem writeTextAt0_nativeWidth (s : State) (t : List Byte) :
    (s.writeTextAt0 t).nativeWidth = s.nativeWidth := rfl
@[simp] theorem writeTextAt0_reg (s : State) (t : List Byte) (r : Reg) :
    (s.writeTextAt0 t).reg r = s.reg r := rfl

@[simp] theorem consume_xs (s : State) : s.consume.xs = s.xs := rfl
@[simp] theorem consume_flags (s : State) : s.consume.flags = s.flags := rfl
@[simp] theorem consume_status (s : State) : s.consume.status = s.status := rfl
@[simp] theorem consume_dataOut (s : State) : s.consume.dataOut = s.dataOut := rfl
@[simp] theorem consume_tlen (s : State) : s.consume.tlen = s.tlen := rfl
@[simp] theorem consume_txt (s : State) : s.consume.txt = s.txt := rfl
@[simp] theorem consume_port (s : State) : s.consume.port = s.port.tail := rfl
@[simp] theorem consume_txtDraw (s : State) : s.consume.txtDraw = s.txtDraw := rfl
@[simp] theorem consume_nativeWidth (s : State) : s.consume.nativeWidth = s.nativeWidth := rfl
@[simp] theorem consume_reg (s : State) (r : Reg) : s.consume.reg r = s.reg r := rfl
@[simp] theorem consume_readTxt (s : State) (a : Nat) : s.consume.readTxt a = s.readTxt a := rfl

@[simp] theorem enterFault_xs (s : State) (c : Cause) : (s.enterFault c).xs = s.xs := rfl
@[simp] theorem enterFault_flags (s : State) (c : Cause) : (s.enterFault c).flags = s.flags := rfl
@[simp] theorem enterFault_status (s : State) (c : Cause) :
    (s.enterFault c).status = { faulted := true, cause := c, fcmd := s.cmdWord } := rfl
@[simp] theorem enterFault_dataOut (s : State) (c : Cause) : (s.enterFault c).dataOut = s.dataOut := rfl
@[simp] theorem enterFault_tlen (s : State) (c : Cause) : (s.enterFault c).tlen = s.tlen := rfl
@[simp] theorem enterFault_txt (s : State) (c : Cause) : (s.enterFault c).txt = s.txt := rfl
@[simp] theorem enterFault_port (s : State) (c : Cause) : (s.enterFault c).port = s.port := rfl
@[simp] theorem enterFault_txtDraw (s : State) (c : Cause) : (s.enterFault c).txtDraw = s.txtDraw := rfl
@[simp] theorem enterFault_nativeWidth (s : State) (c : Cause) :
    (s.enterFault c).nativeWidth = s.nativeWidth := rfl
@[simp] theorem enterFault_reg (s : State) (c : Cause) (r : Reg) : (s.enterFault c).reg r = s.reg r := rfl
@[simp] theorem enterFault_readTxt (s : State) (c : Cause) (a : Nat) :
    (s.enterFault c).readTxt a = s.readTxt a := rfl

@[simp] theorem withO_o (f : Flags) (b : Bool) : (f.withO b).o = b := rfl
@[simp] theorem withO_lt (f : Flags) (b : Bool) : (f.withO b).lt = f.lt := rfl
@[simp] theorem withO_eq (f : Flags) (b : Bool) : (f.withO b).eq = f.eq := rfl
@[simp] theorem withO_a (f : Flags) (b : Bool) : (f.withO b).a = f.a := rfl
@[simp] theorem withCompare_o (f : Flags) (l e : Bool) : (f.withCompare l e).o = f.o := rfl
@[simp] theorem withCompare_lt (f : Flags) (l e : Bool) : (f.withCompare l e).lt = l := rfl
@[simp] theorem withCompare_eq (f : Flags) (l e : Bool) : (f.withCompare l e).eq = e := rfl
@[simp] theorem withCompare_a (f : Flags) (l e : Bool) : (f.withCompare l e).a = f.a := rfl
@[simp] theorem withA_o (f : Flags) (b : Bool) : (f.withA b).o = f.o := rfl
@[simp] theorem withA_lt (f : Flags) (b : Bool) : (f.withA b).lt = f.lt := rfl
@[simp] theorem withA_eq (f : Flags) (b : Bool) : (f.withA b).eq = f.eq := rfl
@[simp] theorem withA_a (f : Flags) (b : Bool) : (f.withA b).a = b := rfl

/-! ## The register file -/

@[simp] theorem reg_zero (s : State) : s.reg 0 = 0#128 := by simp [State.reg]

@[simp] theorem setReg_zero (s : State) (v : Word) : s.setReg 0 v = s := by simp [State.setReg]

theorem reg_of_ne (s : State) (r : Reg) (h : r ≠ 0) :
    s.reg r = s.xs[r.val - 1]'(slot_lt r h) := by simp [State.reg, h]

/-- A register read after a register write: the written register gives the value, `x[0]` gives zero,
every other register is unchanged (R28). -/
theorem reg_setReg (s : State) (d r : Reg) (v : Word) :
    (s.setReg d v).reg r = if r = 0 then 0#128 else if r = d then v else s.reg r := by
  by_cases hr : r = 0
  · subst hr; simp
  by_cases hd : d = 0
  · subst hd; simp [hr]
  rw [reg_of_ne _ _ hr]
  have hrv : r.val ≠ 0 := fun e => hr (Fin.ext e)
  have hdv : d.val ≠ 0 := fun e => hd (Fin.ext e)
  by_cases h : r = d
  · subst h; simp [State.setReg, hr]
  · have hne : d.val - 1 ≠ r.val - 1 := by
      intro e
      exact h (Fin.ext (by omega))
    simp [State.setReg, hd, hr, h, State.reg, Vector.getElem_set_ne _ _ hne]

/-- Two register writes in a row, as a command with two results makes them. -/
theorem reg_setReg_setReg (s : State) (d e r : Reg) (v w : Word) :
    ((s.setReg d v).setReg e w).reg r =
      if r = 0 then 0#128 else if r = e then w else if r = d then v else s.reg r := by
  rw [reg_setReg, reg_setReg]
  by_cases h : r = 0 <;> simp [h]

/-- States agree in every register exactly when they store the same registers. -/
theorem xs_eq_of_reg_eq {s t : State} (h : ∀ r, s.reg r = t.reg r) : s.xs = t.xs := by
  apply Vector.ext
  intro i hi
  have hne : (⟨i + 1, by omega⟩ : Reg) ≠ 0 := by
    intro e
    simpa using congrArg Fin.val e
  have := h ⟨i + 1, by omega⟩
  rw [reg_of_ne _ _ hne, reg_of_ne _ _ hne] at this
  simpa using this

end Sys2Proof.Machine
end

