-- ==== Sys2Proof/Laws/Memory.lean ====
section
/-! SUPPORT. The laws of TXT (20_memory.md R37, R38): a byte reads back as written, a write leaves every
other byte alone, and every operation keeps the canonical form. -/

namespace Sys2Proof.Machine

/-- A byte read after one write (R38). -/
theorem Memory.read?_write (m : Memory) (a b : Nat) (v : Byte) :
    Memory.read? (Memory.write m a v) b = if b = a then some v else Memory.read? m b := by
  induction m with
  | nil => simp [Memory.write, Memory.read?]
  | cons c rest ih =>
    obtain ⟨k, x⟩ := c
    simp only [Memory.write]
    split
    · simp [Memory.read?]
    · split
      · rename_i _ hak
        subst hak
        by_cases hb : b = a <;> simp [Memory.read?, hb]
      · rename_i _ hak
        by_cases hbk : b = k
        · subst hbk
          have : b ≠ a := fun e => hak e.symm
          simp [Memory.read?, this]
        · simp [Memory.read?, hbk, ih]

/-- A canonical list stays one from a lower bound. -/
theorem Memory.wfFrom_mono {m : Memory} {low low' : Nat} (h : low' ≤ low)
    (hm : Memory.wfFrom low m = true) : Memory.wfFrom low' m = true := by
  cases m with
  | nil => rfl
  | cons c rest =>
    obtain ⟨k, x⟩ := c
    simp only [Memory.wfFrom, Bool.and_eq_true, decide_eq_true_eq] at hm ⊢
    exact ⟨⟨le_trans h hm.1.1, hm.1.2⟩, hm.2⟩

/-- A write at an address of TXT keeps the canonical form. -/
theorem Memory.wfFrom_write (m : Memory) (low a : Nat) (v : Byte) (hm : Memory.wfFrom low m = true)
    (hl : low ≤ a) (ha : a < Config.txtSize) : Memory.wfFrom low (Memory.write m a v) = true := by
  induction m generalizing low with
  | nil => simp [Memory.write, Memory.wfFrom, hl, ha]
  | cons c rest ih =>
    obtain ⟨k, x⟩ := c
    have hm' := hm
    simp only [Memory.wfFrom, Bool.and_eq_true, decide_eq_true_eq] at hm
    simp only [Memory.write]
    split
    · rename_i hak
      simp only [Memory.wfFrom, Bool.and_eq_true, decide_eq_true_eq]
      exact ⟨⟨hl, ha⟩, ⟨hak, hm.1.2⟩, hm.2⟩
    · split
      · rename_i _ hak
        subst hak
        simpa only [Memory.wfFrom] using hm'
      · rename_i h1 h2
        simp only [Memory.wfFrom, Bool.and_eq_true, decide_eq_true_eq]
        exact ⟨hm.1, ih (k + 1) hm.2 (by omega)⟩

/-- A write keeps the canonical form. -/
theorem Memory.wf_write (m : Memory) (a : Nat) (v : Byte) (hm : Memory.wf m = true)
    (ha : a < Config.txtSize) : Memory.wf (Memory.write m a v) = true :=
  Memory.wfFrom_write m 0 a v hm (Nat.zero_le _) ha

/-- Writing a text that ends inside TXT keeps the canonical form. -/
theorem Memory.wf_writeText (m : Memory) (a : Nat) (t : List Byte) (hm : Memory.wf m = true)
    (ha : a + t.length ≤ Config.txtSize) : Memory.wf (Memory.writeText m a t) = true := by
  induction t generalizing m a with
  | nil => exact hm
  | cons b rest ih =>
    simp only [List.length_cons] at ha
    exact ih _ _ (Memory.wf_write m a b hm (by omega)) (by omega)

/-- A byte read after writing a text: inside the text its character, elsewhere what was there. -/
theorem Memory.read?_writeText (m : Memory) (a b : Nat) (t : List Byte) :
    Memory.read? (Memory.writeText m a t) b =
      if a ≤ b ∧ b < a + t.length then t[b - a]? else Memory.read? m b := by
  induction t generalizing m a with
  | nil => simp [Memory.writeText]
  | cons c rest ih =>
    simp only [Memory.writeText, ih, Memory.read?_write, List.length_cons]
    by_cases h1 : b = a
    · subst h1; simp
    · by_cases h2 : a + 1 ≤ b ∧ b < a + 1 + rest.length
      · rw [if_pos h2, if_pos (by omega)]
        obtain ⟨n, hn⟩ : ∃ n, b - a = n + 1 := ⟨b - a - 1, by omega⟩
        rw [show b - (a + 1) = n by omega, hn]
        simp
      · rw [if_neg h2, if_neg h1, if_neg (by omega)]

/-- An address below the lower bound of a canonical list is not listed. -/
theorem Memory.read?_below {m : Memory} {low a : Nat} (hm : Memory.wfFrom low m = true)
    (h : a < low) : Memory.read? m a = none := by
  induction m generalizing low with
  | nil => rfl
  | cons c rest ih =>
    obtain ⟨k, x⟩ := c
    simp only [Memory.wfFrom, Bool.and_eq_true, decide_eq_true_eq] at hm
    rw [Memory.read?, if_neg (by omega)]
    exact ih hm.2 (by omega)

/-- Equal memories are equal data: canonical lists with the same reads are the same list. -/
theorem Memory.wfFrom_ext {m n : Memory} {low : Nat} (hm : Memory.wfFrom low m = true)
    (hn : Memory.wfFrom low n = true) (h : ∀ a, Memory.read? m a = Memory.read? n a) : m = n := by
  induction m generalizing n low with
  | nil =>
    cases n with
    | nil => rfl
    | cons c rest => simpa [Memory.read?] using h c.1
  | cons c rest ih =>
    obtain ⟨k, x⟩ := c
    have hm2 := hm
    simp only [Memory.wfFrom, Bool.and_eq_true, decide_eq_true_eq] at hm2
    cases n with
    | nil => simpa [Memory.read?] using h k
    | cons d rest' =>
      obtain ⟨k', x'⟩ := d
      have hn2 := hn
      simp only [Memory.wfFrom, Bool.and_eq_true, decide_eq_true_eq] at hn2
      have hk : k = k' := by
        by_contra hne
        rcases Nat.lt_or_gt_of_ne hne with hlt | hgt
        · have := h k
          rw [Memory.read?, if_pos rfl, Memory.read?, if_neg hne,
            Memory.read?_below hn2.2 (by omega)] at this
          cases this
        · have := h k'
          rw [Memory.read?, if_neg (Ne.symm hne), Memory.read?_below hm2.2 (by omega),
            Memory.read?, if_pos rfl] at this
          cases this
      subst hk
      have hx : x = x' := by simpa [Memory.read?] using h k
      subst hx
      have : rest = rest' := by
        refine ih hm2.2 hn2.2 fun a => ?_
        by_cases ha : a = k
        · subst ha
          rw [Memory.read?_below hm2.2 (by omega), Memory.read?_below hn2.2 (by omega)]
        · simpa [Memory.read?, ha] using h a
      rw [this]

/-- Canonical memories with the same reads are equal. -/
theorem Memory.wf_ext {m n : Memory} (hm : Memory.wf m = true) (hn : Memory.wf n = true)
    (h : ∀ a, Memory.read? m a = Memory.read? n a) : m = n :=
  Memory.wfFrom_ext hm hn h

/-- TXT read after TWR's write. -/
theorem readTxt_writeTxt (s : State) (a b : Nat) (v : Byte) :
    (s.writeTxt a v).readTxt b = if b = a then v else s.readTxt b := by
  simp only [State.readTxt, writeTxt_txt, writeTxt_txtDraw, Memory.read?_write]
  split <;> rfl

/-- TXT read after a format's writes. -/
theorem readTxt_writeTextAt0 (s : State) (t : List Byte) (b : Nat) :
    (s.writeTextAt0 t).readTxt b = (t[b]?).getD (s.readTxt b) := by
  simp only [State.readTxt, writeTextAt0_txt, writeTextAt0_txtDraw, Memory.read?_writeText]
  by_cases h : b < t.length
  · simp [h]
  · simp [h]

/-- A format's text is what the next PARSE reads. -/
theorem text_of_writeTextAt0 (s : State) (t : List Byte) (h : t.length < 512) :
    ((s.writeTextAt0 t).setTlen (BitVec.ofNat 9 t.length)).text = t := by
  have hlen : (BitVec.ofNat 9 t.length).toNat = t.length := by
    simp [BitVec.toNat_ofNat]; omega
  apply List.ext_getElem
  · simp [State.text, hlen]
  · intro i h1 h2
    simp [State.text, readTxt_writeTextAt0, h2]

end Sys2Proof.Machine
end

