-- ==== Sys2Proof/Laws/Step.lean ====
section
/-! SUPPORT. What one step can do, said once: the four ways a step answers, and fault entry. -/

namespace Sys2Proof.Machine

@[simp] theorem andConsume_next (s : State) : andConsume (.next s) = .next s.consume := rfl

@[simp] theorem raiseFault_eq (c : Cause) (s : State) : raiseFault c s = .next (s.enterFault c) := rfl

/-- A consumed outcome is a next state exactly when the outcome was. -/
theorem andConsume_eq_next {r : Result} {t : State} :
    andConsume r = .next t ↔ ∃ u, r = .next u ∧ t = u.consume := by
  cases r <;> simp [andConsume, eq_comm]

/-- The command at the port. -/
theorem presented_of_port {s : State} {c : Command} {rest : List Input}
    (h : s.port = .command c :: rest) : s.presented = c := by simp [State.presented, h]

theorem cmdWord_of_port {s : State} {c : Command} {rest : List Input}
    (h : s.port = .command c :: rest) : s.cmdWord = c.word := by
  rw [State.cmdWord, presented_of_port h]

theorem dataIn_of_port {s : State} {c : Command} {rest : List Input}
    (h : s.port = .command c :: rest) : s.dataIn = c.dataIn := by
  rw [State.dataIn, presented_of_port h]

/-- Every way a step answers a next state: idle, reset, a command discarded while faulted, a word that
stands for no command, or a command run by `exec`. -/
theorem step_cases {s t : State} (h : step s = .next t) :
    (s.port = [] ∧ t = s) ∨
    (∃ rest, s.port = .reset :: rest ∧ t = s.assertReset.consume) ∨
    (∃ c rest, s.port = .command c :: rest ∧ s.status.faulted = true ∧ t = s.consume) ∨
    (∃ c rest e, s.port = .command c :: rest ∧ s.status.faulted = false ∧ decode c.word = .error e ∧
      t = (s.enterFault .illegalCommand).consume) ∨
    (∃ c rest i u, s.port = .command c :: rest ∧ s.status.faulted = false ∧ decode c.word = .ok i ∧
      exec i s = .next u ∧ t = u.consume) := by
  unfold step stepWith at h
  split at h
  · rename_i hp
    exact .inl ⟨hp, by simpa [eq_comm] using h⟩
  · rename_i c rest hp
    unfold acceptCommand at h
    split at h
    · rename_i hf
      exact .inr (.inr (.inl ⟨c, rest, hp, hf, by simpa [eq_comm] using h⟩))
    · rename_i hf
      have hf' : s.status.faulted = false := by simpa using hf
      obtain ⟨u, hu, ht⟩ := andConsume_eq_next.mp h
      unfold runPresented at hu
      rw [cmdWord_of_port hp] at hu
      split at hu
      · rename_i i hd
        exact .inr (.inr (.inr (.inr ⟨c, rest, i, u, hp, hf', hd, hu, ht⟩)))
      · rename_i e hd
        have : u = s.enterFault .illegalCommand := by simpa [eq_comm] using hu
        exact .inr (.inr (.inr (.inl ⟨c, rest, e, hp, hf', hd, by rw [ht, this]⟩)))
  · rename_i rest hp
    exact .inr (.inl ⟨rest, hp, by simpa [eq_comm] using h⟩)

/-- A step on a word that decodes, out of the faulted state: `exec`, the input then consumed. -/
theorem step_of_decode_ok {s : State} {c : Command} {rest : List Input} {i : Instr}
    (hp : s.port = .command c :: rest) (hf : s.status.faulted = false)
    (hd : decode c.word = .ok i) : step s = andConsume (exec i s) := by
  simp [step, stepWith, hp, acceptCommand, hf, runPresented, cmdWord_of_port hp, hd]

/-- A step on a word that stands for no command, out of the faulted state. -/
theorem step_of_decode_error {s : State} {c : Command} {rest : List Input} {e : Reject}
    (hp : s.port = .command c :: rest) (hf : s.status.faulted = false)
    (hd : decode c.word = .error e) : step s = .next (s.enterFault .illegalCommand).consume := by
  simp [step, stepWith, hp, acceptCommand, hf, runPresented, cmdWord_of_port hp, hd]

end Sys2Proof.Machine
end

