-- ==== Sys2Proof/Laws/Exec.lean ====
section
/-! SUPPORT. The shapes in which a command completes (Safety.lean), each from the update its meaning
makes; the shift data paths (45_logic_shift_compare.md R108); and the signed range (00_scope.md R16). -/

namespace Sys2Proof.Machine

/-! ## Completion shapes -/

/-- A command that only writes `x[rd]`. -/
theorem completesSetting_of_setReg {i : Instr} {s : State} {rd : Reg} {v : Word}
    (h : exec i s = .next (s.setReg rd v)) : CompletesSetting i s rd v :=
  ⟨_, h, fun r => reg_setReg s rd r v, by simp, by simp [KeepsRest, KeepsTxt, KeepsOwn]⟩

/-- A command that writes `x[rd]` and FLAGS.O. -/
theorem completesReporting_of_setReg {i : Instr} {s : State} {rd : Reg} {v : Word} {o : Bool}
    (h : exec i s = .next ((s.setReg rd v).setFlags (s.flags.withO o))) :
    CompletesReporting i s rd v o :=
  ⟨_, h, fun r => by simp [reg_setReg], rfl, by simp [KeepsRest, KeepsTxt, KeepsOwn]⟩

/-- Two register writes with different destinations, or with the first discarded. -/
theorem regsSet2_setReg (s : State) {rd rd2 : Reg} (v w : Word) (hd : rd = 0 ∨ rd ≠ rd2) :
    RegsSet2 s ((s.setReg rd v).setReg rd2 w) rd v rd2 w := by
  intro r
  rw [reg_setReg_setReg]
  grind

/-- A command that writes `x[rd]` and `x[rd2]`. -/
theorem completesSetting2_of_setReg {i : Instr} {s : State} {rd rd2 : Reg} {v w : Word}
    (hd : rd = 0 ∨ rd ≠ rd2) (h : exec i s = .next ((s.setReg rd v).setReg rd2 w)) :
    CompletesSetting2 i s rd v rd2 w :=
  ⟨_, h, regsSet2_setReg s v w hd, by simp, by simp [KeepsRest, KeepsTxt, KeepsOwn]⟩

/-- A command that writes `x[rd]`, `x[rd2]` and FLAGS.O. -/
theorem completesReporting2_of_setReg {i : Instr} {s : State} {rd rd2 : Reg} {v w : Word} {o : Bool}
    (hd : rd = 0 ∨ rd ≠ rd2)
    (h : exec i s = .next (((s.setReg rd v).setReg rd2 w).setFlags (s.flags.withO o))) :
    CompletesReporting2 i s rd v rd2 w o :=
  ⟨_, h, fun r => regsSet2_setReg s v w hd r, rfl, by simp [KeepsRest, KeepsTxt, KeepsOwn]⟩

/-- A command that only writes DATA_OUT. -/
theorem completesReading_of_setDataOut {i : Instr} {s : State} {v : Half}
    (h : exec i s = .next (s.setDataOut v)) : CompletesReading i s v s.flags :=
  ⟨_, h, rfl, rfl, by simp [KeepsRegs], rfl, rfl, by simp [KeepsTxt], by simp [KeepsOwn]⟩

/-- Every command that answers a next state either took fault entry, and then only STATUS changed, or
left STATUS alone. -/
theorem exec_next_cases {i : Instr} {s t : State} (h : exec i s = .next t) :
    (∃ c, c ≠ .none ∧ t = s.enterFault c) ∨ t.status = s.status := by
  cases i <;>
    simp only [
      exec, execNop, execRdflags, execLdlo, execLdhi, execLdu, execLds, execLdus, execLdbit,
      execRdlo, execRdhi, execWord, execCvt, execAddw, execAddu, execAdds, execAdduo,
      execAddso, execSubw, execSubu, execSubs, execSubuo, execSubso, execMulw, execMulu,
      execMuls, execMuluo, execMulso, execMuluf, execMulsf, execDivu, execDivs, execDivuo,
      execDivso, execDivfw, execNeg, execMag, execAnd, execOr, execXor, execNot, execSll,
      execSrl, execSra, execSllm, execSrlm, execSram, execCmpu, execCmps, execTwr, execTrd,
      execTsetlen, execTgetlen, execParseu, execParses, execFmtu, execFmts, parseCommand,
      formatCommand] at h <;>
    (repeat' split at h) <;>
    simp only [raiseFault_eq, Host.Outcome.next.injEq, reduceCtorEq] at h <;>
    subst h <;>
    first
    | exact .inl ⟨_, by decide, rfl⟩
    | exact .inr (by simp)

/-! ## The signed range -/

/-- The overflow tests of the data paths are the statements' range test. -/
theorem outside128_iff (n : Int) : outside128 n = true ↔ ¬InSigned n := by
  simp only [outside128, InSigned, Bool.or_eq_true, decide_eq_true_eq]
  omega

/-! ## Shift data paths -/

theorem getLsbD_halves (h l : Half) (i : Nat) :
    (halves h l).getLsbD i = if i < 64 then l.getLsbD i else h.getLsbD (i - 64) :=
  BitVec.getLsbD_append

theorem getLsbD_hi (x : Word) (i : Nat) : (hi x).getLsbD i = (decide (i < 64) && x.getLsbD (64 + i)) := by
  simp [hi]

theorem getLsbD_lo (x : Word) (i : Nat) : (lo x).getLsbD i = (decide (i < 64) && x.getLsbD i) := by
  simp [lo]

theorem msb_hi (x : Word) : (hi x).msb = x.msb := by
  rw [BitVec.msb_eq_getLsbD_last, BitVec.msb_eq_getLsbD_last, getLsbD_hi]
  rfl

/-- R108: the left shift crosses the halves as one 128-bit shift. -/
theorem shl128_eq (x : Word) (k : Nat) : shl128 x k = x <<< k := by
  unfold shl128
  apply BitVec.eq_of_getLsbD_eq
  intro i hi
  split
  · simp [*]
  split
  · obtain ⟨n, rfl⟩ : ∃ n, k = 64 + n := ⟨k - 64, by omega⟩
    simp [getLsbD_halves, getLsbD_lo]
    grind
  · simp [getLsbD_halves, getLsbD_hi, getLsbD_lo]
    grind

/-- The low half of a right shift by less than 64 takes its bits from both halves. -/
theorem getLsbD_lo_shiftRight (x : Word) (k i : Nat) (hk : k < 64) (h : i < 64) :
    ((lo x >>> k) ||| (hi x <<< (64 - k))).getLsbD i = x.getLsbD (k + i) := by
  simp only [getLsbD_hi, getLsbD_lo, BitVec.getLsbD_shiftLeft, BitVec.getLsbD_or,
    BitVec.getLsbD_ushiftRight]
  by_cases h2 : k + i < 64
  · have h3 : i < 64 - k := by omega
    simp [h2, h3]
  · have h3 : ¬i < 64 - k := by omega
    have h4 : 64 + (i - (64 - k)) = k + i := by omega
    have h5 : i - (64 - k) < 64 := by omega
    simp [h, h2, h3, h4, h5]

/-- R108: the logical right shift crosses the halves as one 128-bit shift. -/
theorem shr128_eq (x : Word) (k : Nat) : shr128 x k = x >>> k := by
  unfold shr128
  apply BitVec.eq_of_getLsbD_eq
  intro i hi
  split
  · simp [*]
  split
  · simp only [getLsbD_halves, getLsbD_hi, BitVec.getLsbD_ushiftRight, BitVec.getLsbD_zero]
    grind
  · rw [getLsbD_halves]
    split
    · rw [getLsbD_lo_shiftRight _ _ _ (by omega) ‹_›, BitVec.getLsbD_ushiftRight]
    · simp only [getLsbD_hi, BitVec.getLsbD_ushiftRight]
      grind

/-- R108: the arithmetic right shift crosses the halves as one 128-bit shift. -/
theorem sar128_eq (x : Word) (k : Nat) : sar128 x k = x.sshiftRight k := by
  unfold sar128 sra64
  apply BitVec.eq_of_getLsbD_eq
  intro i hi
  split
  · simp [*]
  split
  · simp only [getLsbD_halves, getLsbD_hi, msb_hi, BitVec.getLsbD_sshiftRight]
    grind
  · rw [getLsbD_halves]
    split
    · rw [getLsbD_lo_shiftRight _ _ _ (by omega) ‹_›, BitVec.getLsbD_sshiftRight]
      grind
    · simp only [getLsbD_hi, msb_hi, BitVec.getLsbD_sshiftRight]
      grind

end Sys2Proof.Machine
end

