-- ==== Sys2Proof/Tests/Slice0.lean ====
section
/-! SUPPORT. The model's own tests. Expected values are the words and vectors of 95_test_vectors.md (each
test names its vector) or follow by hand from the rule it cites. The witnesses at the end show, for every
statement with hypotheses, a concrete state and operands that meet them, clause by clause. -/

namespace Sys2Proof.Tests

open Sys2Proof.Machine

/-! ## Small states and what is read of an outcome -/

/-- The reset state with `x[1]` and `x[2]` loaded. -/
def withRegs (x1 x2 : Word) : State := (State.reset.setReg 1 x1).setReg 2 x2

/-- The state with one command presented. -/
def given (s : State) (w : CmdWord) (d : Half) : State :=
  { s with port := [.command { word := w, dataIn := d }] }

/-- One step on a command, from reset with `x[1]` and `x[2]` loaded. -/
def run (x1 x2 : Word) (w : CmdWord) (d : Half) : Result := step (given (withRegs x1 x2) w d)

/-- The reset state with a text in TXT and its length in TLEN, and `x[1]` loaded. -/
def withText (text : List Byte) (x1 : Word) : State :=
  ((withRegs x1 0#128).writeTextAt0 text).setTlen (BitVec.ofNat 9 text.length)

/-- One step on a command, from reset with a text and `x[1]` loaded. -/
def runText (text : List Byte) (x1 : Word) (w : CmdWord) : Result :=
  step (given (withText text x1) w 0#64)

def stateOf : Result → Option State
  | .next t => some t
  | .fault _ => none
  | .refused _ => none

def regOf (r : Reg) (o : Result) : Option Word := (stateOf o).map fun t => t.reg r
def flagsOf (o : Result) : Option (BitVec 8) := (stateOf o).map fun t => t.flags.toBits
def statusOf (o : Result) : Option (BitVec 64) := (stateOf o).map fun t => t.statusOut
def dataOutOf (o : Result) : Option Half := (stateOf o).map fun t => t.dataOut
def textOf (o : Result) : Option (List Byte) := (stateOf o).map fun t => t.text

/-! ## WellFormed: each check refuses an ill-formed command (10_state.md R26) -/

theorem test_wf_refuses_muluf_with_equal_destinations : (Instr.muluf 3 3 1 2).wf = false := by decide
theorem test_wf_refuses_mulsf_with_equal_destinations : (Instr.mulsf 1 1 1 2).wf = false := by decide
theorem test_wf_refuses_divu_with_equal_destinations : (Instr.divu 15 15 1 2).wf = false := by decide
theorem test_wf_refuses_divs_with_equal_destinations : (Instr.divs 4 4 0 0).wf = false := by decide
theorem test_wf_refuses_divuo_with_equal_destinations : (Instr.divuo 7 7 1 2).wf = false := by decide
theorem test_wf_refuses_divso_with_equal_destinations : (Instr.divso 9 9 9 9).wf = false := by decide
/-- "both zero is legal" (R26), and so is one of the two zero. -/
theorem test_wf_accepts_discarded_destinations :
    (Instr.muluf 0 0 1 2).wf = true ∧ (Instr.divu 0 5 1 2).wf = true ∧
      (Instr.divs 5 0 1 2).wf = true := by decide

/-! ## Decoding words written out from 30_encoding.md R50 to R56 and 95_test_vectors.md -/

theorem test_decode_control_and_construction :
    decode 0x00000000#32 = .ok .nop ∧ decode 0x01000000#32 = .ok .rdflags ∧
    decode 0x10100000#32 = .ok (.ldlo 1) ∧ decode 0x11100000#32 = .ok (.ldhi 1) ∧
    decode 0x12600000#32 = .ok (.ldu 6) ∧ decode 0x13200000#32 = .ok (.lds 2) ∧
    decode 0x14300000#32 = .ok (.ldus 3) ∧ decode 0x15300000#32 = .ok (.ldbit 3) := by
  decide

theorem test_decode_read_out_and_conversion :
    decode 0x1600A000#32 = .ok (.rdlo 10) ∧ decode 0x1700A000#32 = .ok (.rdhi 10) ∧
    decode 0x18001003#32 = .ok (.word 1 3#8) ∧ decode 0x180010FF#32 = .ok (.word 1 255#8) ∧
    decode 0x1900100E#32 = .ok (.cvt 1 .w32 true true) ∧
    decode 0x19001001#32 = .ok (.cvt 1 .w16 false false) ∧
    decode 0x19001007#32 = .ok (.cvt 1 .w64 true false) ∧
    decode 0x19001008#32 = .ok (.cvt 1 .w8 false true) := by
  decide

theorem test_decode_add_and_subtract :
    decode 0x20605400#32 = .ok (.addw 6 5 4) ∧ decode 0x21301200#32 = .ok (.addu 3 1 2) ∧
    decode 0x22401200#32 = .ok (.adds 4 1 2) ∧ decode 0x23301200#32 = .ok (.adduo 3 1 2) ∧
    decode 0x24301200#32 = .ok (.addso 3 1 2) ∧ decode 0x28301200#32 = .ok (.subw 3 1 2) ∧
    decode 0x29301200#32 = .ok (.subu 3 1 2) ∧ decode 0x2A301200#32 = .ok (.subs 3 1 2) ∧
    decode 0x2B301200#32 = .ok (.subuo 3 1 2) ∧ decode 0x2C301200#32 = .ok (.subso 3 1 2) := by
  decide

theorem test_decode_multiply :
    decode 0x30501600#32 = .ok (.mulw 5 1 6) ∧ decode 0x31701600#32 = .ok (.mulu 7 1 6) ∧
    decode 0x32301200#32 = .ok (.muls 3 1 2) ∧ decode 0x33501200#32 = .ok (.muluo 5 1 2) ∧
    decode 0x34301200#32 = .ok (.mulso 3 1 2) ∧ decode 0x35341200#32 = .ok (.muluf 3 4 1 2) ∧
    decode 0x36341200#32 = .ok (.mulsf 3 4 1 2) ∧ decode 0x35001200#32 = .ok (.muluf 0 0 1 2) := by
  decide

theorem test_decode_divide_and_sign :
    decode 0x40AB8200#32 = .ok (.divu 10 11 8 2) ∧ decode 0x41341200#32 = .ok (.divs 3 4 1 2) ∧
    decode 0x42341200#32 = .ok (.divuo 3 4 1 2) ∧ decode 0x43341200#32 = .ok (.divso 3 4 1 2) ∧
    decode 0x44FFFFFF#32 = .ok .divfw ∧ decode 0x48201000#32 = .ok (.neg 2 1) ∧
    decode 0x49201000#32 = .ok (.mag 2 1) := by
  decide

theorem test_decode_logic_shift_and_compare :
    decode 0x50301200#32 = .ok (.and 3 1 2) ∧ decode 0x51301200#32 = .ok (.or 3 1 2) ∧
    decode 0x52301200#32 = .ok (.xor 3 1 2) ∧ decode 0x53301000#32 = .ok (.not 3 1) ∧
    decode 0x58601300#32 = .ok (.sll 6 1 3) ∧ decode 0x59701600#32 = .ok (.srl 7 1 6) ∧
    decode 0x5A301200#32 = .ok (.sra 3 1 2) ∧ decode 0x5C301200#32 = .ok (.sllm 3 1 2) ∧
    decode 0x5D301200#32 = .ok (.srlm 3 1 2) ∧ decode 0x5E301200#32 = .ok (.sram 3 1 2) ∧
    decode 0x6000A700#32 = .ok (.cmpu 10 7) ∧ decode 0x61001200#32 = .ok (.cmps 1 2) := by
  decide

theorem test_decode_text :
    decode 0x70000014#32 = .ok (.twr 20#8) ∧ decode 0x71000005#32 = .ok (.trd 5#8) ∧
    decode 0x72000000#32 = .ok .tsetlen ∧ decode 0x73000000#32 = .ok .tgetlen ∧
    decode 0x74100010#32 = .ok (.parseu 1 16#8) ∧ decode 0x75200024#32 = .ok (.parses 2 36#8) ∧
    decode 0x7600100A#32 = .ok (.fmtu 1 10#8) ∧ decode 0x7700300A#32 = .ok (.fmts 3 10#8) := by
  decide

/-- R57, R58, E1 to E10: rejected words, each by its reason. -/
theorem test_decode_rejects :
    decode 0x02000000#32 = .error .unassignedOpcode ∧
    decode 0xFF000000#32 = .error .unassignedOpcode ∧
    decode 0x5B312000#32 = .error .unassignedOpcode ∧
    decode 0x00000001#32 = .error .mustBeZero ∧ decode 0x20311200#32 = .error .mustBeZero ∧
    decode 0x20301201#32 = .error .mustBeZero ∧ decode 0x19001010#32 = .error .mustBeZero ∧
    decode 0x35331200#32 = .error .sameDestinations := by
  decide

/-- The encoder writes the words of 95_test_vectors.md. -/
theorem test_encode_writes_the_vectors_words :
    encode (.divu 10 11 8 2) = 0x40AB8200#32 ∧ encode (.cvt 1 .w32 true true) = 0x1900100E#32 ∧
    encode (.parses 2 36#8) = 0x75200024#32 ∧ encode (.cmpu 10 7) = 0x6000A700#32 ∧
    encode (.rdhi 10) = 0x1700A000#32 ∧ encode (.twr 20#8) = 0x70000014#32 := by
  decide

/-- Every row of the map decodes, at its match word, to a command of its own mnemonic. -/
theorem test_every_row_of_the_map_decodes :
    (opcodeMap.all fun r => ((decode r.pattern).toOption.map Instr.mnemonic) = some r.mnemonic) =
      true := by
  decide

/-- The table word's layout (log 14): `LDLO x1` with 96 bits, DATA_IN 7. -/
theorem test_table_word_layout :
    decodeTableWord 32 0x10100000 = some (.ldlo 1) ∧
    decodeTableWord 96 0x0000000000000007_10100000 = some (.ldlo 1) ∧
    regOf 1 (step (State.reset.withFetchWord 96 0x0000000000000007_10100000)) = some 7#128 := by
  decide

/-! ## One step per command (95_test_vectors.md section 2) -/

/-- X1: NOP -/
theorem test_nop_changes_nothing :
    (let r := run 0x0#128 0x0#128 0x0#32 0x0#64
    stateOf r = some State.reset) := by decide

/-- X3: LDLO r1, #7 -/
theorem test_ldlo_keeps_the_high_half :
    (let r := run 0x50000000000000006#128 0x0#128 0x10100000#32 0x7#64
    regOf 1 r = some 0x50000000000000007#128) := by decide

/-- X4: LDHI r1, #0x8000000000000000 -/
theorem test_ldhi_keeps_the_low_half :
    (let r := run 0x50000000000000006#128 0x0#128 0x11100000#32 0x8000000000000000#64
    regOf 1 r = some 0x80000000000000000000000000000006#128) := by decide

/-- X5: LDU r2, #0xFFFFFFFFFFFFFFFF -/
theorem test_ldu_extends_with_zeros :
    (let r := run 0x0#128 0x0#128 0x12200000#32 0xFFFFFFFFFFFFFFFF#64
    regOf 2 r = some 0xFFFFFFFFFFFFFFFF#128) := by decide

/-- X7: LDS r2, #-9223372036854775808 -/
theorem test_lds_extends_the_sign :
    (let r := run 0x0#128 0x0#128 0x13200000#32 0x8000000000000000#64
    regOf 2 r = some 0xFFFFFFFFFFFFFFFF8000000000000000#128) := by decide

/-- X8: LDUS r1, #9223372036854775807 -/
theorem test_ldus_takes_the_greatest :
    (let r := run 0x0#128 0x0#128 0x14100000#32 0x7FFFFFFFFFFFFFFF#64
    regOf 1 r = some 0x7FFFFFFFFFFFFFFF#128) := by decide

/-- X9: LDUS r1, #-1 -/
theorem test_ldus_refuses_a_negative :
    (let r := run 0x0#128 0x0#128 0x14100000#32 0xFFFFFFFFFFFFFFFF#64
    statusOf r = some 0x1410000000000701#64) := by decide

/-- X12: LDBIT r3, #127 -/
theorem test_ldbit_sets_the_sign_bit :
    (let r := run 0x0#128 0x0#128 0x15300000#32 0x7F#64
    regOf 3 r = some 0x80000000000000000000000000000000#128) := by decide

/-- X13: LDBIT r3, #128 -/
theorem test_ldbit_refuses_128 :
    (let r := run 0x0#128 0x0#128 0x15300000#32 0x80#64
    statusOf r = some 0x1530000000000601#64) := by decide

/-- X15: LDU r0, #5 the write to x[0] is discarded -/
theorem test_ldu_to_register_zero_is_discarded :
    (let r := run 0x0#128 0x0#128 0x12000000#32 0x5#64
    regOf 0 r = some 0x0#128) := by decide

/-- X16: RDLO r1 -/
theorem test_rdlo_reads_the_low_half :
    (let r := run 0x50000000000000006#128 0x0#128 0x16001000#32 0x0#64
    dataOutOf r = some 0x6#64) := by decide

/-- X17: RDHI r1 -/
theorem test_rdhi_reads_the_high_half :
    (let r := run 0x50000000000000006#128 0x0#128 0x17001000#32 0x0#64
    dataOutOf r = some 0x5#64) := by decide

/-- X19: WORD r1, 1 NATIVE_WIDTH = 64 -/
theorem test_word_1_of_two :
    (let r := run 0x11223344556677889900AABBCCDDEEFF#128 0x0#128 0x18001001#32 0x0#64
    dataOutOf r = some 0x1122334455667788#64) := by decide

/-- X20: WORD r1, 2 NATIVE_WIDTH = 64 -/
theorem test_word_2_is_out_of_range :
    (let r := run 0x11223344556677889900AABBCCDDEEFF#128 0x0#128 0x18001002#32 0x0#64
    statusOf r = some 0x1800100200000801#64) := by decide

/-- X29: CVT r1, 0x4 signed 8-bit from unsigned -/
theorem test_cvt_of_unsigned_all_ones_is_absent :
    (let r := run 0xFFFFFFFFFFFFFFFFFFFFFFFFFFFFFFFF#128 0x0#128 0x19001004#32 0x0#64
    flagsOf r = some 0x8#8 ∧
      dataOutOf r = some 0x0#64) := by decide

/-- X35: CVT r1, 0xF signed 64-bit from signed -/
theorem test_cvt_keeps_the_sign_of_the_least :
    (let r := run 0xFFFFFFFFFFFFFFFF8000000000000000#128 0x0#128 0x1900100F#32 0x0#64
    flagsOf r = some 0x0#8 ∧
      dataOutOf r = some 0x8000000000000000#64) := by decide

/-- A1: ADDW r3, r1, r2 carry from lo into hi -/
theorem test_addw_carries_across_the_halves :
    (let r := run 0xFFFFFFFFFFFFFFFF#128 0x1#128 0x20301200#32 0x0#64
    regOf 3 r = some 0x10000000000000000#128) := by decide

/-- A3: ADDU r3, r1, r2 -/
theorem test_addu_faults_on_carry_out :
    (let r := run 0xFFFFFFFFFFFFFFFFFFFFFFFFFFFFFFFF#128 0x1#128 0x21301200#32 0x0#64
    statusOf r = some 0x2130120000000201#64) := by decide

/-- A4: ADDU r3, r1, r2 -/
theorem test_addu_completes :
    (let r := run 0xFFFFFFFFFFFFFFFF#128 0xFFFFFFFFFFFFFFFF#128 0x21301200#32 0x0#64
    regOf 3 r = some 0x1FFFFFFFFFFFFFFFE#128) := by decide

/-- A8: ADDS r3, r1, r2 (C2 case: exact overflow test) -/
theorem test_adds_folded_carry_is_no_overflow :
    (let r := run 0x80000000000000008000000000000000#128 0xFFFFFFFFFFFFFFFF8000000000000000#128
                0x22301200#32 0x0#64
    regOf 3 r = some 0x80000000000000000000000000000000#128) := by decide

/-- A10: ADDUO r3, r1, r2 a lo carry alone never signals -/
theorem test_adduo_low_carry_is_not_o :
    (let r := run 0xFFFFFFFFFFFFFFFF#128 0x1#128 0x23301200#32 0x0#64
    regOf 3 r = some 0x10000000000000000#128 ∧
      flagsOf r = some 0x0#8) := by decide

/-- A12: ADDSO r3, r1, r2 -/
theorem test_addso_sets_o :
    (let r := run 0x80000000000000000000000000000000#128 0x80000000000000000000000000000000#128
                0x24301200#32 0x0#64
    regOf 3 r = some 0x0#128 ∧
      flagsOf r = some 0x1#8) := by decide

/-- A15: SUBW r3, r1, r2 wraps -/
theorem test_subw_wraps :
    (let r := run 0x0#128 0x1#128 0x28301200#32 0x0#64
    regOf 3 r = some 0xFFFFFFFFFFFFFFFFFFFFFFFFFFFFFFFF#128) := by decide

/-- A17: SUBU r3, r1, r2 (C1 case: a lo borrow alone is not borrow-out) -/
theorem test_subu_low_borrow_is_no_borrow_out :
    (let r := run 0x10000000000000000#128 0x1#128 0x29301200#32 0x0#64
    regOf 3 r = some 0xFFFFFFFFFFFFFFFF#128) := by decide

/-- A20: SUBS r3, r1, r2 result SMIN, representable -/
theorem test_subs_reaches_smin :
    (let r := run 0xFFFFFFFFFFFFFFFFFFFFFFFFFFFFFFFF#128 0x7FFFFFFFFFFFFFFFFFFFFFFFFFFFFFFF#128
                0x2A301200#32 0x0#64
    regOf 3 r = some 0x80000000000000000000000000000000#128) := by decide

/-- A22: SUBUO r3, r1, r2 -/
theorem test_subuo_sets_o :
    (let r := run 0x0#128 0xFFFFFFFFFFFFFFFFFFFFFFFFFFFFFFFF#128 0x2B301200#32 0x0#64
    regOf 3 r = some 0x1#128 ∧
      flagsOf r = some 0x1#8) := by decide

/-- A25: SUBSO r3, r1, r2 NEGO of SMIN -/
theorem test_subso_of_smin_sets_o :
    (let r := run 0x0#128 0x80000000000000000000000000000000#128 0x2C301200#32 0x0#64
    regOf 3 r = some 0x80000000000000000000000000000000#128 ∧
      flagsOf r = some 0x1#8) := by decide

/-- B3: NEG r2, r1 -/
theorem test_neg_of_smax :
    (let r := run 0x7FFFFFFFFFFFFFFFFFFFFFFFFFFFFFFF#128 0x0#128 0x48201000#32 0x0#64
    regOf 2 r = some 0x80000000000000000000000000000001#128) := by decide

/-- B4: NEG r2, r1 (D23: checked) -/
theorem test_neg_of_smin_faults :
    (let r := run 0x80000000000000000000000000000000#128 0x0#128 0x48201000#32 0x0#64
    statusOf r = some 0x4820100000000201#64) := by decide

/-- B7: MAG r2, r1 2¹²⁷ read unsigned -/
theorem test_mag_of_smin :
    (let r := run 0x80000000000000000000000000000000#128 0x0#128 0x49201000#32 0x0#64
    regOf 2 r = some 0x80000000000000000000000000000000#128) := by decide

/-- M3: MULW r3, r1, r2 -/
theorem test_mulw_shifts_a_digit :
    (let r := run 0x11223344556677889900AABBCCDDEEFF#128 0x10#128 0x30301200#32 0x0#64
    regOf 3 r = some 0x1223344556677889900AABBCCDDEEFF0#128) := by decide

/-- M5: MULU r3, r1, r2 fast path, no overflow -/
theorem test_mulu_fast_path :
    (let r := run 0xFFFFFFFFFFFFFFFF#128 0xFFFFFFFFFFFFFFFF#128 0x31301200#32 0x0#64
    regOf 3 r = some 0xFFFFFFFFFFFFFFFE0000000000000001#128) := by decide

/-- M6: MULU r3, r1, r2 -/
theorem test_mulu_faults :
    (let r := run 0x10000000000000000#128 0x10000000000000000#128 0x31301200#32 0x0#64
    statusOf r = some 0x3130120000000201#64) := by decide

/-- M10: MULS r3, r1, r2 -/
theorem test_muls_reaches_smin :
    (let r := run 0x80000000000000000000000000000000#128 0x1#128 0x32301200#32 0x0#64
    regOf 3 r = some 0x80000000000000000000000000000000#128) := by decide

/-- M11: MULS r3, r1, r2 -/
theorem test_muls_faults :
    (let r := run 0x80000000000000000000000000000000#128 0xFFFFFFFFFFFFFFFFFFFFFFFFFFFFFFFF#128
                0x32301200#32 0x0#64
    statusOf r = some 0x3230120000000201#64) := by decide

/-- M15: MULUO r3, r1, r2 -/
theorem test_muluo_clears_o :
    (let r := run 0xFFFFFFFFFFFFFFFF#128 0x10000000000000001#128 0x33301200#32 0x0#64
    regOf 3 r = some 0xFFFFFFFFFFFFFFFFFFFFFFFFFFFFFFFF#128 ∧
      flagsOf r = some 0x0#8) := by decide

/-- M17: MULSO r3, r1, r2 +2¹²⁷ is not representable -/
theorem test_mulso_sets_o :
    (let r := run 0x40000000000000000000000000000000#128 0x2#128 0x34301200#32 0x0#64
    regOf 3 r = some 0x80000000000000000000000000000000#128 ∧
      flagsOf r = some 0x1#8) := by decide

/-- M18: MULSO r3, r1, r2 -2¹²⁷ is representable -/
theorem test_mulso_clears_o :
    (let r := run 0xC0000000000000000000000000000000#128 0x2#128 0x34301200#32 0x0#64
    regOf 3 r = some 0x80000000000000000000000000000000#128 ∧
      flagsOf r = some 0x0#8) := by decide

/-- M21: MULUF r3, r4, r1, r2 -/
theorem test_muluf_low_and_high :
    (let r := run 0xFFFFFFFFFFFFFFFFFFFFFFFFFFFFFFFF#128 0xFFFFFFFFFFFFFFFFFFFFFFFFFFFFFFFF#128
                0x35341200#32 0x0#64
    regOf 3 r = some 0x1#128 ∧
      regOf 4 r = some 0xFFFFFFFFFFFFFFFFFFFFFFFFFFFFFFFE#128) := by decide

/-- M26: MULSF r3, r4, r1, r2 (C3 case: the carry out of bit 255 is discarded) -/
theorem test_mulsf_discards_the_carry_of_bit_255 :
    (let r := run 0x0#128 0xFFFFFFFFFFFFFFFFFFFFFFFFFFFFFFFF#128 0x36341200#32 0x0#64
    regOf 3 r = some 0x0#128 ∧
      regOf 4 r = some 0x0#128) := by decide

/-- M27: MULSF r3, r4, r1, r2 -1 · SMAX -/
theorem test_mulsf_negative :
    (let r := run 0xFFFFFFFFFFFFFFFFFFFFFFFFFFFFFFFF#128 0x7FFFFFFFFFFFFFFFFFFFFFFFFFFFFFFF#128
                0x36341200#32 0x0#64
    regOf 3 r = some 0x80000000000000000000000000000001#128 ∧
      regOf 4 r = some 0xFFFFFFFFFFFFFFFFFFFFFFFFFFFFFFFF#128) := by decide

/-- V8: DIVU r3, r4, r1, r2 two-word divisor -/
theorem test_divu_two_word_divisor :
    (let r := run 0x11223344556677889900AABBCCDDEEFF#128 0x123456789ABCDEF01#128 0x40341200#32
                0x0#64
    regOf 3 r = some 0xF0F0F0F0F0F0F1D#128 ∧
      regOf 4 r = some 0x34CFACF13579CCE2#128) := by decide

/-- V10: DIVS r3, r4, r1, r2 -/
theorem test_divs_truncates :
    (let r := run 0xFFFFFFFFFFFFFFFFFFFFFFFFFFFFFFF9#128 0x2#128 0x41341200#32 0x0#64
    regOf 3 r = some 0xFFFFFFFFFFFFFFFFFFFFFFFFFFFFFFFD#128 ∧
      regOf 4 r = some 0xFFFFFFFFFFFFFFFFFFFFFFFFFFFFFFFF#128) := by decide

/-- V15: DIVS r3, r4, r1, r2 (D19) -/
theorem test_divs_of_smin_by_minus_one_faults :
    (let r := run 0x80000000000000000000000000000000#128 0xFFFFFFFFFFFFFFFFFFFFFFFFFFFFFFFF#128
                0x41341200#32 0x0#64
    statusOf r = some 0x4134120000000201#64) := by decide

/-- V17: DIVUO r3, r4, r1, r2 a zero divisor returns the dividend -/
theorem test_divuo_by_zero_returns_the_dividend :
    (let r := run 0x5#128 0x0#128 0x42341200#32 0x0#64
    regOf 3 r = some 0x5#128 ∧
      regOf 4 r = some 0x5#128 ∧
      flagsOf r = some 0x1#8) := by decide

/-- V20: DIVSO r3, r4, r1, r2 (D19) -/
theorem test_divso_of_smin_by_minus_one :
    (let r := run 0x80000000000000000000000000000000#128 0xFFFFFFFFFFFFFFFFFFFFFFFFFFFFFFFF#128
                0x43341200#32 0x0#64
    regOf 3 r = some 0x80000000000000000000000000000000#128 ∧
      regOf 4 r = some 0x0#128 ∧
      flagsOf r = some 0x1#8) := by decide

/-- V22: DIVSO r3, r4, r1, r2 -/
theorem test_divso_remainder_has_the_dividends_sign :
    (let r := run 0xFFFFFFFFFFFFFFFFFFFFFFFFFFFFFF9C#128 0x7#128 0x43341200#32 0x0#64
    regOf 3 r = some 0xFFFFFFFFFFFFFFFFFFFFFFFFFFFFFFF2#128 ∧
      regOf 4 r = some 0xFFFFFFFFFFFFFFFFFFFFFFFFFFFFFFFE#128 ∧
      flagsOf r = some 0x0#8) := by decide

/-- V23: DIVFW with nonzero ignored bits -/
theorem test_divfw_ignores_its_low_bits :
    (let r := run 0x0#128 0x0#128 0x44123400#32 0x0#64
    statusOf r = some 0x4412340000000401#64) := by decide

/-- L1: AND r3, r1, r2 -/
theorem test_and_masks :
    (let r := run 0xFFFFFFFFFFFFFFFFFFFFFFFFFFFFFFFF#128 0xFF#128 0x50301200#32 0x0#64
    regOf 3 r = some 0xFF#128) := by decide

/-- L2: OR r3, r1, r2 -/
theorem test_or_joins_halves :
    (let r := run 0xF00000000000000000#128 0xF#128 0x51301200#32 0x0#64
    regOf 3 r = some 0xF0000000000000000F#128) := by decide

/-- L3: XOR r3, r1, r2 -/
theorem test_xor_flips_a_bit :
    (let r := run 0xFFFFFFFFFFFFFFFFFFFFFFFFFFFFFFFF#128 0x1#128 0x52301200#32 0x0#64
    regOf 3 r = some 0xFFFFFFFFFFFFFFFFFFFFFFFFFFFFFFFE#128) := by decide

/-- L5: NOT r3, r1 -/
theorem test_not_flips_every_bit :
    (let r := run 0x80000000000000000000000000000000#128 0x0#128 0x53301000#32 0x0#64
    regOf 3 r = some 0x7FFFFFFFFFFFFFFFFFFFFFFFFFFFFFFF#128) := by decide

/-- L6: SLL r3, r1, r2 n = 64 crosses the halves -/
theorem test_sll_crosses_the_halves :
    (let r := run 0x1#128 0x40#128 0x58301200#32 0x0#64
    regOf 3 r = some 0x10000000000000000#128) := by decide

/-- L9: SLL r3, r1, r2 amount with its high word set -/
theorem test_sll_reads_the_whole_amount :
    (let r := run 0xFFFFFFFFFFFFFFFFFFFFFFFFFFFFFFFF#128 0x10000000000000000#128 0x58301200#32
                0x0#64
    regOf 3 r = some 0x0#128) := by decide

/-- L12: SRL r3, r1, r2 -/
theorem test_srl_of_the_top_bit :
    (let r := run 0x80000000000000000000000000000000#128 0x7F#128 0x59301200#32 0x0#64
    regOf 3 r = some 0x1#128) := by decide

/-- L14: SRA r3, r1, r2 -/
theorem test_sra_crosses_the_halves :
    (let r := run 0x80000000000000000000000000000000#128 0x40#128 0x5A301200#32 0x0#64
    regOf 3 r = some 0xFFFFFFFFFFFFFFFF8000000000000000#128) := by decide

/-- L17: SRA r3, r1, r2 saturates to ZERO (D17) -/
theorem test_sra_saturates_to_zero :
    (let r := run 0xFFFFFFFFFFFFFFFFFFFFFFFFFFFFFFFF#128 0x80#128 0x5A301200#32 0x0#64
    regOf 3 r = some 0x0#128) := by decide

/-- L19: SLLM r3, r1, r2 k = 72 -/
theorem test_sllm_takes_the_amount_modulo_128 :
    (let r := run 0x1#128 0xC8#128 0x5C301200#32 0x0#64
    regOf 3 r = some 0x1000000000000000000#128) := by decide

/-- L21: SRLM r3, r1, r2 k = 127 -/
theorem test_srlm_by_127 :
    (let r := run 0x80000000000000000000000000000000#128 0xFF#128 0x5D301200#32 0x0#64
    regOf 3 r = some 0x1#128) := by decide

/-- L22: SRAM r3, r1, r2 k = 4 -/
theorem test_sram_by_4 :
    (let r := run 0xFFFFFFFFFFFFFFFFFFFFFFFFFFFFFF00#128 0x84#128 0x5E301200#32 0x0#64
    regOf 3 r = some 0xFFFFFFFFFFFFFFFFFFFFFFFFFFFFFFF0#128) := by decide

/-- L24: CMPU r1, r2 hi decides -/
theorem test_cmpu_high_half_decides :
    (let r := run 0xFFFFFFFFFFFFFFFF#128 0x10000000000000000#128 0x60001200#32 0x0#64
    flagsOf r = some 0x2#8) := by decide

/-- L28: CMPS r1, r2 -/
theorem test_cmps_is_signed :
    (let r := run 0x80000000000000000000000000000000#128 0x7FFFFFFFFFFFFFFFFFFFFFFFFFFFFFFF#128
                0x61001200#32 0x0#64
    flagsOf r = some 0x2#8) := by decide

/-- L29: CMPS r1, r2 lo compared unsigned -/
theorem test_cmps_low_half_is_unsigned :
    (let r := run 0xFFFFFFFFFFFFFFFF#128 0x1#128 0x61001200#32 0x0#64
    flagsOf r = some 0x0#8) := by decide

/-- T2: PARSEU r1, 16 uppercase accepted -/
theorem test_parseu_accepts_uppercase :
    (let r := runText [0x46#8, 0x46#8] 0x0#128 0x74100010#32
    regOf 1 r = some 0xFF#128 ∧
      flagsOf r = some 0x0#8) := by decide

/-- T4: PARSEU r1, 10 ABSENT, x[1] kept -/
theorem test_parseu_absent_keeps_the_register :
    (let r := runText [0x2D#8, 0x35#8] 0x63#128 0x7410000A#32
    regOf 1 r = some 0x63#128 ∧
      flagsOf r = some 0x8#8) := by decide

/-- T17: PARSES r1, 10 SMIN -/
theorem test_parses_reaches_smin :
    (let r := runText [0x2D#8, 0x31#8, 0x37#8, 0x30#8, 0x31#8, 0x34#8, 0x31#8, 0x31#8, 0x38#8,
                0x33#8, 0x34#8, 0x36#8, 0x30#8, 0x34#8, 0x36#8, 0x39#8, 0x32#8, 0x33#8, 0x31#8,
                0x37#8, 0x33#8, 0x31#8, 0x36#8, 0x38#8, 0x37#8, 0x33#8, 0x30#8, 0x33#8, 0x37#8,
                0x31#8, 0x35#8, 0x38#8, 0x38#8, 0x34#8, 0x31#8, 0x30#8, 0x35#8, 0x37#8, 0x32#8,
                0x38#8] 0x0#128 0x7510000A#32
    regOf 1 r = some 0x80000000000000000000000000000000#128 ∧
      flagsOf r = some 0x0#8) := by decide

/-- T21: PARSES r1, 10 -/
theorem test_parses_of_a_bare_sign_is_absent :
    (let r := runText [0x2D#8] 0x63#128 0x7510000A#32
    regOf 1 r = some 0x63#128 ∧
      flagsOf r = some 0x8#8) := by decide

/-- T16: PARSEU r1, 0 a bad radix beats an empty text (R120) -/
theorem test_parseu_bad_radix_comes_first :
    (let r := runText [] 0x0#128 0x74100000#32
    statusOf r = some 0x7410000000000501#64) := by decide

/-- T28: FMTU r1, 36 -/
theorem test_fmtu_radix_36 :
    (let r := run 0xFFFFFFFFFFFFFFFFFFFFFFFFFFFFFFFF#128 0x0#128 0x76001024#32 0x0#64
    textOf r = some [0x66#8, 0x35#8, 0x6C#8, 0x78#8, 0x78#8, 0x31#8, 0x7A#8, 0x7A#8, 0x35#8, 0x70#8,
        0x6E#8, 0x6F#8, 0x72#8, 0x79#8, 0x6E#8, 0x71#8, 0x67#8, 0x6C#8, 0x68#8, 0x7A#8, 0x6D#8,
        0x73#8, 0x70#8, 0x33#8, 0x33#8]) := by decide +kernel

/-- T30: FMTU r1, 37 bad radix -/
theorem test_fmtu_bad_radix :
    (let r := run 0x1#128 0x0#128 0x76001025#32 0x0#64
    statusOf r = some 0x7600102500000501#64) := by decide

/-- T31: FMTS r1, 16 -/
theorem test_fmts_negative :
    (let r := run 0xFFFFFFFFFFFFFFFFFFFFFFFFFFFFFFFF#128 0x0#128 0x77001010#32 0x0#64
    textOf r = some [0x2D#8, 0x31#8]) := by decide

/-- T39: TSETLEN #257 -/
theorem test_tsetlen_refuses_257 :
    (let r := run 0x0#128 0x0#128 0x72000000#32 0x101#64
    statusOf r = some 0x7200000000000801#64) := by decide

/-- E5: ADDW with RD2 = 1 (an MBZ field) -/
theorem test_addw_with_rd2_is_illegal :
    (let r := run 0x5#128 0x7#128 0x20311200#32 0x0#64
    statusOf r = some 0x2031120000000101#64) := by decide

/-- E8: MULUF r3, r3, r1, r2 (RD = RD2 != 0) -/
theorem test_muluf_with_equal_destinations_is_illegal :
    (let r := run 0x5#128 0x7#128 0x35331200#32 0x0#64
    statusOf r = some 0x3533120000000101#64) := by decide

/-- E10: CVT with IMM8[7:4] != 0 -/
theorem test_cvt_with_a_high_selector_bit_is_illegal :
    (let r := run 0x5#128 0x7#128 0x19001010#32 0x0#64
    statusOf r = some 0x1900101000000101#64) := by decide

/-- E9: a DEST command with both destinations 0 executes and writes nothing. -/
theorem test_muluf_with_both_destinations_zero :
    stateOf (run 5#128 7#128 0x35001200#32 0#64) = some (withRegs 5#128 7#128) := by decide

/-- A source that is also a destination is read first (10_state.md R25): DIVU r1, r2, r1, r2 on 100, 7. -/
theorem test_divu_reads_sources_before_writing :
    regOf 1 (run 100#128 7#128 0x40121200#32 0#64) = some 14#128 ∧
      regOf 2 (run 100#128 7#128 0x40121200#32 0#64) = some 2#128 := by decide

/-- X2: RDFLAGS with FLAGS = 0x0B. -/
theorem test_rdflags_reads_every_flag :
    dataOutOf (step (given { State.reset with
      flags := { o := true, lt := true, eq := false, a := true } } 0x01000000#32 0#64)) =
      some 0xB#64 := by decide

/-- X24: WORD r1, 3 with NATIVE_WIDTH = 32. -/
theorem test_word_3_of_four :
    dataOutOf (step (given { withRegs 0x11223344556677889900AABBCCDDEEFF#128 0#128 with
      nativeWidth := .w32 } 0x18001003#32 0#64)) = some 0x11223344#64 := by decide

/-- T35: FMTS of 7 over the text "-123" leaves "123" beyond TLEN. -/
theorem test_fmts_keeps_the_bytes_beyond :
    (stateOf (runText [0x2D#8, 0x31#8, 0x32#8, 0x33#8] 7#128 0x7700100A#32)).map
      (fun t => (t.txt, t.tlen)) =
      some ([(0, 0x37#8), (1, 0x31#8), (2, 0x32#8), (3, 0x33#8)], 1#9) := by decide

/-- T36: TWR 0 takes DATA_IN[7:0] of 0x1237. -/
theorem test_twr_takes_the_low_byte :
    (stateOf (run 0#128 0#128 0x70000000#32 0x1237#64)).map (fun t => (t.txt, t.tlen)) =
      some ([(0, 0x37#8)], 0#9) := by decide

/-- T37: TRD 5 with TXT[5] = 0x41. -/
theorem test_trd_reads_a_byte :
    dataOutOf (step (given (State.reset.writeTxt 5 0x41#8) 0x71000005#32 0#64)) = some 0x41#64 := by
  decide

/-- T38: TSETLEN #256. -/
theorem test_tsetlen_takes_256 :
    (stateOf (run 0#128 0#128 0x72000000#32 0x100#64)).map (fun t => t.tlen) = some 256#9 := by
  decide

/-- R129 on T38's length: TGETLEN reads 256. -/
theorem test_tgetlen_reads_256 :
    dataOutOf (step (given (State.reset.setTlen 256#9) 0x73000000#32 0#64)) = some 256#64 := by
  decide

/-- T18, T17: the parser's signed range is -2¹²⁷ to 2¹²⁷ - 1; here in radix 16, on 2¹²⁷. -/
theorem test_parse_range_of_the_signed_type :
    parseText true 16 (0x38#8 :: List.replicate 31 0x30#8) = none ∧
    parseText true 16 (0x2D#8 :: 0x38#8 :: List.replicate 31 0x30#8) = some smin ∧
    parseText false 16 (0x38#8 :: List.replicate 31 0x30#8) = some smin := by decide

/-! ## Faults, the faulted state and reset (60_exceptions.md R151, R152, 70_reset_and_hazards.md R159) -/

/-- The command sequence of 95_test_vectors.md 2.9 from its third step on: DIVU faults, LDU r5 and RDLO r1
are discarded. -/
def faultSequence : State :=
  { withRegs 5#128 0#128 with port :=
      [.command { word := 0x40341200#32, dataIn := 0#64 },
       .command { word := 0x12500000#32, dataIn := 9#64 },
       .command { word := 0x16001000#32, dataIn := 0#64 }] }

theorem test_commands_after_a_fault_are_discarded :
    (match Sys2Proof.core.run 3 faultSequence with
      | .next t => some (Machine.State.reg t 5, Machine.State.dataOut t, Machine.State.statusOut t)
      | .fault _ => none
      | .refused _ => none) = some (0#128, 0#64, 0x4034120000000301#64) := by decide

/-- Reset leaves the faulted state (R153, R159). -/
theorem test_reset_clears_a_fault :
    (stateOf (step { withRegs 5#128 0#128 with
        status := { faulted := true, cause := .overflow, fcmd := 0x48301000#32 },
        port := [.reset] })).map (fun t => (t.status.toBits, t.reg 1, t.port)) =
      some (0#64, 0#128, []) := by decide

/-- An idle block keeps its state (R158). -/
theorem test_idle_keeps_the_state :
    stateOf (step (withRegs 5#128 6#128)) = some (withRegs 5#128 6#128) := by
  decide

/-! ## Witnesses: the hypotheses of each statement, met -/

theorem witness_DecodeOfEncodeIsTheCommand :
    (Instr.muluf 3 4 1 2).wf = true ∧ (Instr.divso 0 0 15 15).wf = true ∧
      (Instr.cvt 15 .w64 true true).wf = true := by decide

theorem witness_EncodeOfDecodeIsTheWord :
    (decode 0x20301200#32 = .ok (.addw 3 1 2) ∧ Instr.addw 3 1 2 ≠ .divfw) ∧
      decode 0x44FFFFFF#32 = .ok .divfw := by decide

theorem witness_DecoderFollowsTheOpcodeMap :
    decode 0x35341200#32 = .ok (.muluf 3 4 1 2) ∧
    (∃ r ∈ opcodeMap, r.selects 0x35341200#32 = true ∧ ¬(r.dest = true ∧
      rdField 0x35341200#32 = rd2Field 0x35341200#32 ∧ rdField 0x35341200#32 ≠ 0)) ∧
    (∃ r ∈ opcodeMap, r.selects 0x35001200#32 = true ∧ r.dest = true) := by decide

theorem witness_NoWordMatchesTwoRows :
    ∃ r ∈ opcodeMap, r.selects 0x44FFFFFF#32 = true := by decide

/-- Each opcode range at both its ends, and a must-be-zero bit of an assigned opcode. -/
theorem witness_UnassignedWordsRaiseIllegalCommand :
    ([0x02, 0x0F, 0x1A, 0x1F, 0x25, 0x27, 0x2D, 0x2F, 0x37, 0x3F, 0x45, 0x47, 0x4A, 0x4F, 0x54, 0x57,
        0x5B, 0x5F, 0x62, 0x6F, 0x78, 0xFF].map fun n =>
      (opcField (BitVec.ofNat 32 (n * 2 ^ 24))).toNat) =
      [0x02, 0x0F, 0x1A, 0x1F, 0x25, 0x27, 0x2D, 0x2F, 0x37, 0x3F, 0x45, 0x47, 0x4A, 0x4F, 0x54, 0x57,
        0x5B, 0x5F, 0x62, 0x6F, 0x78, 0xFF] ∧
    (∃ r ∈ opcodeMap, opcField 0x00000001#32 = opcField r.pattern ∧
      r.selects 0x00000001#32 = false) ∧
    opcField 0x44FFFFFF#32 = 0x44#8 ∧
    (given State.reset 0x02000000#32 0#64).port =
      .command { word := 0x02000000#32, dataIn := 0#64 } :: [] ∧
    (given State.reset 0x02000000#32 0#64).status.faulted = false := by decide

theorem witness_EqualDestinationsRaiseIllegalCommand :
    (1 : Reg) ≠ 0 ∧ (15 : Reg) ≠ 0 ∧ pack 0x35#8 3 3 1 2 0#8 = 0x35331200#32 := by decide

theorem witness_StepRunsTheDecodedCommand :
    (given State.reset 0x20301200#32 0#64).port =
      .command { word := 0x20301200#32, dataIn := 0#64 } :: [] ∧
    (given State.reset 0x20301200#32 0#64).status.faulted = false ∧
    decode 0x20301200#32 = .ok (.addw 3 1 2) := by decide

/-- A faulted state with two commands to come. -/
def faulted2 : State :=
  { State.reset with
    status := { faulted := true, cause := .divByZero, fcmd := 0x40341200#32 }
    port := [.command { word := 0x12500000#32, dataIn := 9#64 },
      .command { word := 0x16001000#32, dataIn := 0#64 }] }

theorem witness_FaultedBlockDiscardsEveryCommand :
    faulted2.status.faulted = true ∧ ∀ e ∈ faulted2.port, ∃ c, e = Input.command c := by
  refine ⟨rfl, fun e he => ?_⟩
  simp only [faulted2, List.mem_cons, List.not_mem_nil, or_false] at he
  rcases he with rfl | rfl <;> exact ⟨_, rfl⟩

theorem witness_AssertedResetResetsEveryPiece :
    ({ faulted2 with port := [.reset] } : State).port = .reset :: [] ∧
      faulted2.status.faulted = true := by decide

theorem witness_IdleBlockKeepsAllState : (withRegs 5#128 6#128).port = [] := by decide

/-- Reset with an ADDW presented meets the invariant and takes a step. -/
theorem witness_StepKeepsTheInvariant :
    (given State.reset 0x20301200#32 0#64).Inv ∧
      ∃ t, step (given State.reset 0x20301200#32 0#64) = .next t :=
  ⟨⟨by decide, by decide, by decide, by decide, by decide⟩, _, rfl⟩

theorem witness_InvariantStatesAlwaysStep :
    ({ faulted2 with tlen := 256#9, txt := [(0, 0x31#8), (255, 0x32#8)] } : State).Inv :=
  ⟨by decide, by decide, by decide, by decide, by decide⟩

/-- DIVU by zero: the step on which FAULTED rises. -/
theorem witness_FaultEntryWritesOnlyStatus :
    (given (withRegs 5#128 0#128) 0x40341200#32 0#64).port =
      .command { word := 0x40341200#32, dataIn := 0#64 } :: [] ∧
    (given (withRegs 5#128 0#128) 0x40341200#32 0#64).status.faulted = false ∧
    (stateOf (run 5#128 0#128 0x40341200#32 0#64)).map (fun t => t.status.faulted) = some true := by
  decide

/-- Each of the seven causes raised after decode is raised by some command; 2.9 of 95_test_vectors.md. -/
theorem witness_CausesAreRaisedOnlyByTheirCommands :
    (withRegs smin zero).status.faulted = false ∧
    ([Instr.neg 3 1, .divs 3 4 1 2, .divfw, .fmtu 1 1#8, .ldbit 3, .ldus 3, .word 1 2#8].map fun i =>
      (stateOf (exec i (given (withRegs smin zero) 0#32 0xFFFFFFFFFFFFFFFB#64))).map
        (fun t => (t.status.faulted, t.status.cause))) =
      [some (true, .overflow), some (true, .divByZero), some (true, .unsupported),
        some (true, .badRadix), some (true, .badBitIndex), some (true, .negativeToUnsigned),
        some (true, .indexRange)] := by decide

/-- A command that completes, and one that changes STATUS. -/
theorem witness_OnlyDestinationRegistersChange :
    stateOf (exec (.addw 3 1 2) (withRegs 5#128 7#128)) = some ((withRegs 5#128 7#128).setReg 3 12#128) ∧
    (3 : Reg) ∈ (Instr.addw 3 1 2).dests ∧ (2 : Reg) ∉ (Instr.addw 3 1 2).dests ∧
    (stateOf (exec .divfw (withRegs 5#128 7#128))).map (fun t => decide (t.status ≠ State.reset.status)) =
      some true := by decide

/-- Each flag bit changes under some command: O, LT, EQ, A; and STATUS under one. -/
theorem witness_OnlyListedCommandsWriteFlags :
    flagsOf (exec (.adduo 3 1 2) (withRegs umax 1#128)) = some 1#8 ∧
    flagsOf (exec (.cmpu 1 2) (withRegs 1#128 2#128)) = some 2#8 ∧
    flagsOf (exec (.cmps 1 2) (withRegs 2#128 2#128)) = some 4#8 ∧
    flagsOf (exec (.parseu 3 10#8) (withRegs 2#128 2#128)) = some 8#8 ∧
    statusOf (exec .divfw (withRegs 2#128 2#128)) = some 0x401#64 := by decide

theorem witness_OnlyListedCommandsWriteDataOut :
    dataOutOf (exec (.rdlo 1) (withRegs 5#128 7#128)) = some 5#64 ∧
      (withRegs 5#128 7#128).dataOut ≠ 5#64 := by decide

/-- TLEN changes under TSETLEN; ADDW is a command that writes neither. -/
theorem witness_OnlyListedCommandsWriteTlenAndTxt :
    (stateOf (exec .tsetlen (given State.reset 0x72000000#32 3#64))).map (fun t => t.tlen) = some 3#9 ∧
    State.reset.tlen ≠ 3#9 ∧ "ADDW" ∉ ["TWR", "FMTU", "FMTS"] ∧
    (stateOf (exec (.addw 3 1 2) State.reset)).isSome = true := by decide

theorem witness_UnreadDataInIsIgnored :
    (given State.reset 0x20301200#32 0#64).port =
      .command { word := 0x20301200#32, dataIn := 0#64 } :: [] ∧
    (stateOf (exec (.addw 3 1 2) (given State.reset 0x20301200#32 0#64))).isSome = true ∧
    (Instr.addw 3 1 2).mnemonic ∉
      ["LDLO", "LDHI", "LDU", "LDS", "LDUS", "LDBIT", "TWR", "TSETLEN"] ∧
    (Instr.twr 0#8).mnemonic = "TWR" ∧
    (0x1237#64 : Half).extractLsb' 0 8 = (0x0037#64 : Half).extractLsb' 0 8 ∧
    (stateOf (exec (.twr 0#8) (given State.reset 0x70000000#32 0x1237#64))).isSome = true := by
  decide

theorem witness_TxtReadsTheByteLastWritten : Memory.read? State.reset.txt 255 = none := by decide

/-! Adder, subtractor and sign bridge: each clause at the edge of its range. -/

theorem witness_CheckedAddsCompleteOrOverflow :
    ((withRegs umax 0#128).reg 1).toNat + ((withRegs umax 0#128).reg 2).toNat < 2 ^ 128 ∧
    2 ^ 128 ≤ ((withRegs umax 1#128).reg 1).toNat + ((withRegs umax 1#128).reg 2).toNat ∧
    InSigned (((withRegs smax 0#128).reg 1).toInt + ((withRegs smax 0#128).reg 2).toInt) ∧
    ¬InSigned (((withRegs smax 1#128).reg 1).toInt + ((withRegs smax 1#128).reg 2).toInt) ∧
    ¬InSigned (((withRegs smin minus1).reg 1).toInt + ((withRegs smin minus1).reg 2).toInt) := by
  unfold InSigned; decide

theorem witness_CheckedSubtractsCompleteOrOverflow :
    ((withRegs 1#128 1#128).reg 2).toNat ≤ ((withRegs 1#128 1#128).reg 1).toNat ∧
    ((withRegs 0#128 1#128).reg 1).toNat < ((withRegs 0#128 1#128).reg 2).toNat ∧
    InSigned (((withRegs minus1 smax).reg 1).toInt - ((withRegs minus1 smax).reg 2).toInt) ∧
    ¬InSigned (((withRegs smin 1#128).reg 1).toInt - ((withRegs smin 1#128).reg 2).toInt) ∧
    ¬InSigned (((withRegs 0#128 smin).reg 1).toInt - ((withRegs 0#128 smin).reg 2).toInt) := by
  unfold InSigned; decide

/-- O = true and O = false, for ADDUO and ADDSO. -/
theorem witness_ReportingAddsCompleteWithO :
    (true = true ↔
      2 ^ 128 ≤ ((withRegs umax 1#128).reg 1).toNat + ((withRegs umax 1#128).reg 2).toNat) ∧
    (false = true ↔
      2 ^ 128 ≤ ((withRegs umax 0#128).reg 1).toNat + ((withRegs umax 0#128).reg 2).toNat) ∧
    (true = true ↔
      ¬InSigned (((withRegs smax 1#128).reg 1).toInt + ((withRegs smax 1#128).reg 2).toInt)) ∧
    (false = true ↔
      ¬InSigned (((withRegs smax 0#128).reg 1).toInt + ((withRegs smax 0#128).reg 2).toInt)) := by
  unfold InSigned; decide

theorem witness_ReportingSubtractsCompleteWithO :
    (true = true ↔ ((withRegs 0#128 1#128).reg 1).toNat < ((withRegs 0#128 1#128).reg 2).toNat) ∧
    (false = true ↔ ((withRegs 1#128 1#128).reg 1).toNat < ((withRegs 1#128 1#128).reg 2).toNat) ∧
    (true = true ↔
      ¬InSigned (((withRegs smin 1#128).reg 1).toInt - ((withRegs smin 1#128).reg 2).toInt)) ∧
    (false = true ↔
      ¬InSigned (((withRegs minus1 smax).reg 1).toInt - ((withRegs minus1 smax).reg 2).toInt)) := by
  unfold InSigned; decide

theorem witness_NegateCompletesOrOverflows :
    (withRegs smax 0#128).reg 1 ≠ smin ∧ (withRegs smin 0#128).reg 1 = smin := by decide

/-! Multiplier and divider. -/

theorem witness_UnsignedTruncatingMultipliesComplete :
    ((withRegs umax 1#128).reg 1).toNat * ((withRegs umax 1#128).reg 2).toNat < 2 ^ 128 ∧
    2 ^ 128 ≤ ((withRegs smin 2#128).reg 1).toNat * ((withRegs smin 2#128).reg 2).toNat ∧
    (true = true ↔
      2 ^ 128 ≤ ((withRegs smin 2#128).reg 1).toNat * ((withRegs smin 2#128).reg 2).toNat) ∧
    (false = true ↔
      2 ^ 128 ≤ ((withRegs umax 1#128).reg 1).toNat * ((withRegs umax 1#128).reg 2).toNat) := by
  decide

theorem witness_SignedTruncatingMultipliesComplete :
    InSigned (((withRegs smin 1#128).reg 1).toInt * ((withRegs smin 1#128).reg 2).toInt) ∧
    ¬InSigned (((withRegs smin minus1).reg 1).toInt * ((withRegs smin minus1).reg 2).toInt) ∧
    (true = true ↔
      ¬InSigned (((withRegs smin minus1).reg 1).toInt * ((withRegs smin minus1).reg 2).toInt)) ∧
    (false = true ↔
      ¬InSigned (((withRegs smin 1#128).reg 1).toInt * ((withRegs smin 1#128).reg 2).toInt)) := by
  unfold InSigned; decide

theorem witness_FullWidthMultipliesComplete :
    ((0 : Reg) = 0 ∨ (0 : Reg) ≠ 0) ∧ ((15 : Reg) = 0 ∨ (15 : Reg) ≠ 14) := by decide

theorem witness_UnsignedDividerIsExact : (1#128 : Word).toNat ≠ 0 ∧ umax.toNat ≠ 0 := by decide

theorem witness_SignedDividerTruncates :
    (minus1 ≠ zero ∧ ¬(smax = smin ∧ minus1 = minus1)) ∧
      (smin ≠ zero ∧ ¬(smin = smin ∧ smin = minus1)) := by decide

/-- A zero divisor, a divisor of 1, and SMIN / MINUS1, each with its destinations legal. -/
theorem witness_CheckedDividesCompleteOrFault :
    ((3 : Reg) = 0 ∨ (3 : Reg) ≠ 4) ∧ (withRegs 5#128 0#128).reg 2 = zero ∧
    (withRegs 5#128 1#128).reg 2 ≠ zero ∧
    ¬((withRegs 5#128 1#128).reg 1 = smin ∧ (withRegs 5#128 1#128).reg 2 = minus1) ∧
    ((withRegs smin minus1).reg 1 = smin ∧ (withRegs smin minus1).reg 2 = minus1) := by
  decide

theorem witness_ReportingDividesCompleteWithO :
    ((0 : Reg) = 0 ∨ (0 : Reg) ≠ 0) ∧ (withRegs 5#128 0#128).reg 2 = zero ∧
    (withRegs smin 2#128).reg 2 ≠ zero ∧
    ¬((withRegs smin 2#128).reg 1 = smin ∧ (withRegs smin 2#128).reg 2 = minus1) ∧
    ((withRegs smin minus1).reg 1 = smin ∧ (withRegs smin minus1).reg 2 = minus1) := by
  decide

/-! Shifts. -/

theorem witness_SaturatingShiftsComplete :
    (127 = ((withRegs 1#128 127#128).reg 2).toNat ∧ 127 < 128) ∧
    (128 = ((withRegs 1#128 128#128).reg 2).toNat ∧ 128 ≤ 128) ∧
    (0 = ((withRegs 1#128 0#128).reg 2).toNat ∧ 0 < 128) := by decide

theorem witness_MaskedShiftsComplete :
    127 = ((withRegs 1#128 255#128).reg 2).toNat % 128 ∧
    0 = ((withRegs 1#128 128#128).reg 2).toNat % 128 := by decide

/-! Text codec. -/

theorem witness_TextLengthCommandsComplete :
    (given State.reset 0x72000000#32 256#64).dataIn.toNat ≤ 256 ∧
    256 < (given State.reset 0x72000000#32 257#64).dataIn.toNat := by decide

/-- "+1" in radix 2, "-z" in radix 36, and a text that stands for no value. -/
theorem witness_ParserAcceptsExactlyTheNumerals :
    (2 ≤ 2 ∧ 2 ≤ 36 ∧ parseText false 2 [0x2B#8, 0x31#8] = some 1#128) ∧
    (2 ≤ 36 ∧ 36 ≤ 36 ∧ parseText true 36 [0x2D#8, 0x7A#8] = some (BitVec.ofInt 128 (-35))) ∧
    parseText false 10 [0x2D#8, 0x31#8] = none := by decide

/-- Radixes 1, 2, 36 and 37; TLEN 256 and 257; a text with a value and the empty text. -/
theorem witness_ParseCommandsComplete :
    (false = false ∧ Instr.parseu 3 2#8 = .parseu 3 2#8) ∧
    ¬(2 ≤ (1#8 : Byte).toNat ∧ (1#8 : Byte).toNat ≤ 36) ∧
    ¬(2 ≤ (37#8 : Byte).toNat ∧ (37#8 : Byte).toNat ≤ 36) ∧
    2 ≤ (2#8 : Byte).toNat ∧ (36#8 : Byte).toNat ≤ 36 ∧
    256 < (State.reset.setTlen 257#9).tlen.toNat ∧
    (State.reset.setTlen 256#9).tlen.toNat ≤ 256 ∧
    parseText false (10#8 : Byte).toNat (withText [0x37#8] 0#128).text = some 7#128 ∧
    parseText true (10#8 : Byte).toNat State.reset.text = none := by decide

theorem witness_FormattedTextSpellsTheValue : 2 ≤ 2 ∧ 36 ≤ 36 := by decide

theorem witness_FormatCommandsComplete :
    (true = true ∧ Instr.fmts 1 36#8 = .fmts 1 36#8) ∧
    ¬(2 ≤ (1#8 : Byte).toNat ∧ (1#8 : Byte).toNat ≤ 36) ∧
    ¬(2 ≤ (37#8 : Byte).toNat ∧ (37#8 : Byte).toNat ≤ 36) ∧
    2 ≤ (2#8 : Byte).toNat ∧ (36#8 : Byte).toNat ≤ 36 ∧
    [0x37#8] = formatText false (10#8 : Byte).toNat ((withRegs 7#128 0#128).reg 1) := by
  decide

theorem witness_ParseAfterFormatGivesTheValueBack :
    2 ≤ (36#8 : Byte).toNat ∧ (36#8 : Byte).toNat ≤ 36 ∧
    (stateOf (exec (.fmtu 1 36#8) (withRegs 35#128 0#128))).isSome = true ∧
    (stateOf (exec (.fmts 1 36#8) (withRegs minus1 0#128))).isSome = true := by decide

/-- "+00A" in radix 16 and "-0" in radix 10, with the normal forms R125 gives them. -/
theorem witness_FormatAfterParseNormalisesTheText :
    (2 ≤ 16 ∧ 16 ≤ 36 ∧ parseText false 16 [0x2B#8, 0x30#8, 0x30#8, 0x41#8] = some 10#128 ∧
      normalText false [0x2B#8, 0x30#8, 0x30#8, 0x41#8] = [0x61#8]) ∧
    (2 ≤ 10 ∧ 10 ≤ 36 ∧ parseText true 10 [0x2D#8, 0x30#8] = some 0#128 ∧
      normalText true [0x2D#8, 0x30#8] = [0x30#8]) := by decide

/-! Transfer. -/

theorem witness_NopAndReadFlagsComplete :
    opcField 0x00000001#32 = 0x00#8 ∧ (0x00000001#32 : CmdWord) ≠ 0#32 ∧
    opcField 0x00F00000#32 = 0x00#8 := by decide

theorem witness_CheckedLoadsCompleteOrFault :
    0 ≤ (given State.reset 0x14100000#32 0#64).dataIn.toInt ∧
    (given State.reset 0x14100000#32 0xFFFFFFFFFFFFFFFF#64).dataIn.toInt < 0 ∧
    (0 ≤ (given State.reset 0x15100000#32 127#64).dataIn.toInt ∧
      (given State.reset 0x15100000#32 127#64).dataIn.toInt ≤ 127) ∧
    127 < (given State.reset 0x15100000#32 128#64).dataIn.toInt := by decide

theorem witness_WordReadCompletesOrFaults :
    (State.reset.nativeWidth = .w64 ∧ 64 = 64 ∧ 2 = 2) ∧
    (({ State.reset with nativeWidth := .w32 } : State).nativeWidth = .w32 ∧ 32 = 32 ∧ 4 = 4) ∧
    (1#8 : Byte).toNat < 2 ∧ 2 ≤ (2#8 : Byte).toNat ∧ (3#8 : Byte).toNat < 4 ∧
    4 ≤ (4#8 : Byte).toNat := by decide

/-- CVT to a signed 8-bit target from a signed source: -128 fits, 128 does not; and the selector of that
form. -/
theorem witness_ConversionCompletes :
    ((-128 : Int) = (if true then ((withRegs (BitVec.ofInt 128 (-128)) 0#128).reg 1).toInt
      else (((withRegs (BitVec.ofInt 128 (-128)) 0#128).reg 1).toNat : Int))) ∧
    (CvtWidth.w8 = .w8 ∧ 8 = 8) ∧
    (0x0C#8 : Byte).toNat = (Nat.log2 8 - 3) + 4 * true.toNat + 8 * true.toNat ∧
    (-2 ^ (8 - 1) ≤ (-128 : Int) ∧ (-128 : Int) ≤ 2 ^ (8 - 1) - 1) ∧
    ¬(-2 ^ (8 - 1) ≤ (128 : Int) ∧ (128 : Int) ≤ 2 ^ (8 - 1) - 1) ∧
    (0 ≤ (255 : Int) ∧ (255 : Int) ≤ 2 ^ 8 - 1) ∧ ¬(0 ≤ (256 : Int) ∧ (256 : Int) ≤ 2 ^ 8 - 1) := by
  decide

end Sys2Proof.Tests
end

section
/-! PROOFS. The state family (10_state.md): what a command can do to the state, said once by the shape of
its update (`exec_effect`); from it the frames of the registers, FLAGS, DATA_OUT, TLEN and TXT. Then the
layout of STATUS and FLAGS, `x[0]`, and the DEST commands that name one register twice. -/

namespace Sys2Proof.Machine

/-! ## What a command can do to the state -/

/-- The commands that write FLAGS.O (10_state.md R29). -/
def oWriters : List String :=
  ["ADDUO", "ADDSO", "SUBUO", "SUBSO", "MULUO", "MULSO", "DIVUO", "DIVSO"]

/-- The commands that write DATA_OUT (10_state.md R32). -/
def dataOutWriters : List String := ["RDLO", "RDHI", "WORD", "CVT", "RDFLAGS", "TRD", "TGETLEN"]

/-- `Effect i s t`: from `s`, the command `i` may end in `t`. One constructor per shape of update a
command's rule makes; each says which commands or destinations have that shape. -/
inductive Effect (i : Instr) (s : State) : State → Prop
  | nothing : Effect i s s
  | fault {c : Cause} (hc : c ≠ .none) : Effect i s (s.enterFault c)
  | setReg {rd : Reg} {v : Word} (hd : i.dests = [rd]) : Effect i s (s.setReg rd v)
  | setRegO {rd : Reg} {v : Word} {o : Bool} (hd : i.dests = [rd]) (hm : i.mnemonic ∈ oWriters) :
      Effect i s ((s.setReg rd v).setFlags (s.flags.withO o))
  | setReg2 {rd rd2 : Reg} {v w : Word} (hd : i.dests = [rd, rd2]) :
      Effect i s ((s.setReg rd v).setReg rd2 w)
  | setReg2O {rd rd2 : Reg} {v w : Word} {o : Bool} (hd : i.dests = [rd, rd2])
      (hm : i.mnemonic ∈ oWriters) :
      Effect i s (((s.setReg rd v).setReg rd2 w).setFlags (s.flags.withO o))
  | compare {lt eq : Bool} (hm : i.mnemonic ∈ ["CMPU", "CMPS"]) :
      Effect i s (s.setFlags (s.flags.withCompare lt eq))
  | parsePresent {rd : Reg} {v : Word} (hd : i.dests = [rd]) (hm : i.mnemonic ∈ ["PARSEU", "PARSES"]) :
      Effect i s ((s.setReg rd v).setFlags (s.flags.withA false))
  | parseAbsent (hm : i.mnemonic ∈ ["PARSEU", "PARSES"]) :
      Effect i s (s.setFlags (s.flags.withA true))
  | setDataOut {v : Half} (hm : i.mnemonic ∈ dataOutWriters) : Effect i s (s.setDataOut v)
  | convert {v : Half} {a : Bool} (hm : i.mnemonic = "CVT") :
      Effect i s ((s.setDataOut v).setFlags (s.flags.withA a))
  | writeTxt {addr : Byte} {v : Byte} (hm : i.mnemonic = "TWR") : Effect i s (s.writeTxt addr.toNat v)
  | setTlen {n : BitVec 9} (hm : i.mnemonic = "TSETLEN") : Effect i s (s.setTlen n)
  | format {text : List Byte} (hm : i.mnemonic ∈ ["FMTU", "FMTS"]) :
      Effect i s ((s.writeTextAt0 text).setTlen (BitVec.ofNat 9 text.length))

/-- A command with one check either faults or completes. -/
theorem next_of_check {p : Prop} [Decidable p] {c : Cause} {s t u : State}
    (h : (if p then raiseFault c s else Host.Outcome.next u : Result) = .next t) :
    t = s.enterFault c ∨ t = u := by
  split at h
  · exact .inl (Host.Outcome.next.inj h).symm
  · exact .inr (Host.Outcome.next.inj h).symm

theorem parseCommand_effect {i : Instr} {signed : Bool} {rd : Reg} {radix : Byte} {s t : State}
    (hd : i.dests = [rd]) (hm : i.mnemonic ∈ ["PARSEU", "PARSES"])
    (h : parseCommand signed rd radix s = .next t) : Effect i s t := by
  unfold parseCommand at h
  split at h
  · cases h; exact .fault (by decide)
  split at h
  · cases h
  split at h
  · cases h; exact .parsePresent hd hm
  · cases h; exact .parseAbsent hm

theorem formatCommand_effect {i : Instr} {signed : Bool} {rs1 : Reg} {radix : Byte} {s t : State}
    (hm : i.mnemonic ∈ ["FMTU", "FMTS"]) (h : formatCommand signed rs1 radix s = .next t) :
    Effect i s t := by
  obtain rfl | rfl := next_of_check h
  · exact .fault (by decide)
  · exact .format hm

/-- Every command that answers a next state makes one of the listed updates. The cases group the commands
by their shape: an update alone, or a check before it. -/
theorem exec_effect {i : Instr} {s t : State} (h : exec i s = .next t) : Effect i s t := by
  cases i with
  | nop => cases h; exact .nothing
  | divfw => cases h; exact .fault (by decide)
  | ldlo | ldhi | ldu | lds | addw | subw | mulw | mag | and | or | xor | not | sll | srl | sra
  | sllm | srlm | sram => cases h; exact .setReg rfl
  | ldus | ldbit | addu | adds | subu | subs | mulu | muls | neg =>
    obtain rfl | rfl := next_of_check h
    · exact .fault (by decide)
    · exact .setReg rfl
  | adduo | addso | subuo | subso | muluo | mulso =>
    cases h; exact .setRegO rfl (by simp [Instr.mnemonic, oWriters])
  | muluf | mulsf => cases h; exact .setReg2 rfl
  | divu =>
    obtain rfl | rfl := next_of_check h
    · exact .fault (by decide)
    · exact .setReg2 rfl
  | divs =>
    simp only [exec, execDivs] at h
    split at h
    · cases h; exact .fault (by decide)
    obtain rfl | rfl := next_of_check h
    · exact .fault (by decide)
    · exact .setReg2 rfl
  | divuo | divso =>
    simp only [exec, execDivuo, execDivso] at h
    split at h <;> cases h <;> exact .setReg2O rfl (by simp [Instr.mnemonic, oWriters])
  | cmpu | cmps => cases h; exact .compare (by simp [Instr.mnemonic])
  | rdflags | rdlo | rdhi | trd | tgetlen =>
    cases h; exact .setDataOut (by simp [Instr.mnemonic, dataOutWriters])
  | word =>
    obtain rfl | rfl := next_of_check h
    · exact .fault (by decide)
    · exact .setDataOut (by simp [Instr.mnemonic, dataOutWriters])
  | cvt =>
    simp only [exec, execCvt] at h
    split at h <;> cases h <;> exact .convert rfl
  | twr => cases h; exact .writeTxt rfl
  | tsetlen =>
    obtain rfl | rfl := next_of_check h
    · exact .fault (by decide)
    · exact .setTlen rfl
  | parseu | parses => exact parseCommand_effect rfl (by simp [Instr.mnemonic]) h
  | fmtu | fmts => exact formatCommand_effect (by simp [Instr.mnemonic]) h

/-! ## What each shape of update leaves unchanged -/

theorem reg_setReg_of_ne {s : State} {d r : Reg} {v : Word} (h : r ≠ d) :
    (s.setReg d v).reg r = s.reg r := by
  rw [reg_setReg, if_neg h]
  split
  · next h0 => rw [h0, reg_zero]
  · rfl

section
variable {i : Instr} {s t : State}

theorem Effect.reg_of_notMem_dests (h : Effect i s t) {r : Reg} (hr : r ∉ i.dests) :
    t.reg r = s.reg r := by
  cases h with
  | nothing | fault | compare | parseAbsent | setDataOut | convert | writeTxt | setTlen | format => rfl
  | setReg hd | setRegO hd | parsePresent hd =>
    rw [hd, List.mem_singleton] at hr
    simp [reg_setReg_of_ne hr]
  | setReg2 hd | setReg2O hd =>
    obtain ⟨h1, h2⟩ : r ≠ _ ∧ r ≠ _ := by simpa [hd] using hr
    simp [reg_setReg_of_ne h1, reg_setReg_of_ne h2]

theorem Effect.keepsOwn (h : Effect i s t) : KeepsOwn s t := by
  cases h <;> simp [KeepsOwn]

theorem Effect.o_writer (h : Effect i s t) (ho : t.flags.o ≠ s.flags.o) : i.mnemonic ∈ oWriters := by
  cases h with
  | setRegO _ hm | setReg2O _ hm => exact hm
  | _ => simp at ho

theorem Effect.lt_writer (h : Effect i s t) (hlt : t.flags.lt ≠ s.flags.lt) :
    i.mnemonic ∈ ["CMPU", "CMPS"] := by
  cases h with
  | compare hm => exact hm
  | _ => simp at hlt

theorem Effect.eq_writer (h : Effect i s t) (heq : t.flags.eq ≠ s.flags.eq) :
    i.mnemonic ∈ ["CMPU", "CMPS"] := by
  cases h with
  | compare hm => exact hm
  | _ => simp at heq

theorem Effect.a_writer (h : Effect i s t) (ha : t.flags.a ≠ s.flags.a) :
    i.mnemonic ∈ ["PARSEU", "PARSES", "CVT"] := by
  cases h with
  | parsePresent _ hm | parseAbsent hm => exact List.mem_append_left ["CVT"] hm
  | convert hm => simp [hm]
  | _ => simp at ha

theorem Effect.dataOut_writer (h : Effect i s t) (hd : t.dataOut ≠ s.dataOut) :
    i.mnemonic ∈ dataOutWriters := by
  cases h with
  | setDataOut hm => exact hm
  | convert hm => simp [hm, dataOutWriters]
  | _ => simp at hd

theorem Effect.tlen_writer (h : Effect i s t) (hl : t.tlen ≠ s.tlen) :
    i.mnemonic ∈ ["TSETLEN", "FMTU", "FMTS"] := by
  cases h with
  | setTlen hm => simp [hm]
  | format hm => exact List.mem_cons_of_mem _ hm
  | _ => simp at hl

theorem Effect.txt_eq (h : Effect i s t) (hm : i.mnemonic ∉ ["TWR", "FMTU", "FMTS"]) :
    t.txt = s.txt := by
  cases h with
  | writeTxt hw => simp [hw] at hm
  | format hw => exact absurd (List.mem_cons_of_mem _ hw) hm
  | _ => simp

end

/-- A command that changes STATUS took fault entry. -/
theorem eq_enterFault_of_status_ne {i : Instr} {s t : State} (h : exec i s = .next t)
    (hs : t.status ≠ s.status) : ∃ c, t = s.enterFault c := by
  obtain ⟨c, -, ht⟩ | ht := exec_next_cases h
  · exact ⟨c, ht⟩
  · exact absurd ht hs

/-- A byte of TXT is read from the memory and the draw alone. -/
theorem keepsTxt_of_txt_eq {s t : State} (ht : t.txt = s.txt) (hd : t.txtDraw = s.txtDraw) :
    KeepsTxt s t := by
  simp [KeepsTxt, State.readTxt, ht, hd]

/-! ## Words that stand for no command -/

/-- A word that does not decode raises ILLEGAL_COMMAND (30_encoding.md R57). -/
theorem raisesIllegal_of_decode_error {w : CmdWord} {e : Reject} (hd : decode w = .error e) :
    RaisesIllegal w := by
  intro s d rest hp hf
  rw [step_of_decode_error hp hf hd]
  simp [State.enterFault, State.consume, cmdWord_of_port hp, hp]

/-- Class DEST rejects RD = RD2 and not 0, whatever IMM8 holds (10_state.md R26). -/
theorem formDEST_pack_same_destinations {rd : Reg} (hrd : rd ≠ 0) (opc : BitVec 8) (rs1 rs2 : Reg)
    (imm : Byte) (f : Reg → Reg → Reg → Reg → Instr) :
    ∃ e, formDEST (pack opc rd rd rs1 rs2 imm) f = .error e := by
  have hdests : destsOk rd rd = false := by simp [destsOk, hrd]
  simp only [formDEST, immField_pack, rdField_pack, rd2Field_pack, hdests]
  split <;> exact ⟨_, rfl⟩

/-- A word with one of the six opcodes of class DEST (30_encoding.md R56) decodes by that class's form. -/
theorem decode_eq_formDEST {w : CmdWord}
    (h : opcField w ∈ [0x35#8, 0x36#8, 0x40#8, 0x41#8, 0x42#8, 0x43#8]) :
    ∃ f, decode w = formDEST w f := by
  simp only [List.mem_cons, List.not_mem_nil, or_false] at h
  obtain h | h | h | h | h | h := h <;> simp only [decode, h] <;> exact ⟨_, rfl⟩

/-! ## The registers the host reads, as numbers -/

/-- STATUS as a number (10_state.md R31). -/
theorem Status.toNat_toBits (st : Status) :
    st.toBits.toNat =
      st.faulted.toNat + st.cause.code.toNat * 2 ^ 8 + st.fcmd.toNat * 2 ^ 32 := by
  simp only [Status.toBits, toNat_append_eq, BitVec.toNat_ofNat, BitVec.toNat_ofBool]
  omega

/-- FLAGS as a number (10_state.md R29). -/
theorem Flags.toNat_toBits (f : Flags) :
    f.toBits.toNat = f.o.toNat + f.lt.toNat * 2 + f.eq.toNat * 4 + f.a.toNat * 8 := by
  simp only [Flags.toBits, toNat_append_eq, BitVec.toNat_ofNat, BitVec.toNat_ofBool]
  omega

/-! ## The obligations -/

/-- Settles O7: class DEST rejects such a word, and a rejected word raises ILLEGAL_COMMAND. -/
theorem equalDestinationsRaiseIllegalCommand : Obligations.EqualDestinationsRaiseIllegalCommand := by
  intro opc hopc rd rs1 rs2 imm hrd
  obtain ⟨f, hf⟩ := decode_eq_formDEST (w := pack opc rd rd rs1 rs2 imm) (by rwa [opcField_pack])
  obtain ⟨e, he⟩ := formDEST_pack_same_destinations hrd opc rs1 rs2 imm f
  exact raisesIllegal_of_decode_error (hf.trans he)

/-- Settles O19, by the shape of the command's update. -/
theorem onlyDestinationRegistersChange : Obligations.OnlyDestinationRegistersChange := by
  intro i s t h
  have he := exec_effect h
  refine ⟨fun r => he.reg_of_notMem_dests, reg_zero t, fun hs => ?_, he.keepsOwn⟩
  obtain ⟨c, rfl⟩ := eq_enterFault_of_status_ne h hs
  exact enterFault_reg s c

/-- Settles O20, by the shape of the command's update. -/
theorem onlyListedCommandsWriteFlags : Obligations.OnlyListedCommandsWriteFlags := by
  intro i s t h
  have he := exec_effect h
  refine ⟨he.o_writer, he.lt_writer, he.eq_writer, he.a_writer, fun hs => ?_⟩
  obtain ⟨c, rfl⟩ := eq_enterFault_of_status_ne h hs
  exact enterFault_flags s c

/-- Settles O21, by the shape of the command's update. -/
theorem onlyListedCommandsWriteDataOut : Obligations.OnlyListedCommandsWriteDataOut :=
  fun _ _ _ h => (exec_effect h).dataOut_writer

/-- Settles O22: TXT reads the same because neither the memory nor the draw changed. -/
theorem onlyListedCommandsWriteTlenAndTxt : Obligations.OnlyListedCommandsWriteTlenAndTxt := by
  intro i s t h
  have he := exec_effect h
  obtain ⟨-, hdraw, -⟩ := he.keepsOwn
  exact ⟨he.tlen_writer, fun hm => ⟨he.txt_eq hm, keepsTxt_of_txt_eq (he.txt_eq hm) hdraw⟩⟩

/-- Settles O18: each register's bits, read as a number, are its fields at their places. -/
theorem statusAndFlagsReadAsLaidOut : Obligations.StatusAndFlagsReadAsLaidOut :=
  ⟨fun s => ⟨s.status.toNat_toBits, rfl⟩, fun s => s.flags.toNat_toBits, by decide⟩

/-- Settles O24. -/
theorem registerZeroReadsZeroAndDiscards : Obligations.RegisterZeroReadsZeroAndDiscards :=
  fun s v => ⟨reg_zero s, setReg_zero s v⟩

end Sys2Proof.Machine
end

section
/-! PROOFS. The memory family (20_memory.md): a byte of TXT reads back as written, and the state invariant
(`State.Inv`) is kept. Each update of the state keeps it under the condition its lemma names; the text a
format writes and the two flags of a compare meet these conditions; so every command keeps it (by the
shape of its update, `exec_effect`), and with `step_cases` every step does. -/

namespace Sys2Proof.Machine

/-! ## What each update needs to keep the invariant -/

section
variable {s : State}

theorem State.Inv.setReg (hs : s.Inv) (r : Reg) (v : Word) : (s.setReg r v).Inv where
  txt := by simpa using hs.txt
  tlen := by simpa using hs.tlen
  noFault := by simpa using hs.noFault
  someFault := by simpa using hs.someFault
  compare := by simpa using hs.compare

theorem State.Inv.setFlags (hs : s.Inv) {f : Flags} (hf : ¬(f.lt = true ∧ f.eq = true)) :
    (s.setFlags f).Inv :=
  { hs with compare := hf }

theorem State.Inv.setDataOut (hs : s.Inv) (v : Half) : (s.setDataOut v).Inv := { hs with }

theorem State.Inv.setTlen (hs : s.Inv) {n : BitVec 9} (hn : n.toNat ≤ Config.txtSize) :
    (s.setTlen n).Inv :=
  { hs with tlen := hn }

theorem State.Inv.writeTxt (hs : s.Inv) {a : Nat} (ha : a < Config.txtSize) (v : Byte) :
    (s.writeTxt a v).Inv :=
  { hs with txt := Memory.wf_write s.txt a v hs.txt ha }

theorem State.Inv.writeTextAt0 (hs : s.Inv) {text : List Byte} (hl : text.length ≤ Config.txtSize) :
    (s.writeTextAt0 text).Inv :=
  { hs with txt := Memory.wf_writeText s.txt 0 text hs.txt (by omega) }

/-- Fault entry with a cause sets CAUSE together with FAULTED (10_state.md R31). -/
theorem State.Inv.enterFault (hs : s.Inv) {c : Cause} (hc : c ≠ .none) : (s.enterFault c).Inv :=
  { hs with
    noFault := fun h => Bool.noConfusion h
    someFault := fun _ => hc }

theorem State.Inv.consume (hs : s.Inv) : s.consume.Inv := { hs with }

end

/-- Every state of R159 meets the invariant, whatever the draw and the inputs to come. -/
theorem resetWith_inv (nw : NativeWidth) (draw : Nat) (port : List Input) :
    (State.resetWith nw draw port).Inv where
  txt := rfl
  tlen := Nat.zero_le _
  noFault := fun _ => ⟨rfl, rfl⟩
  someFault := fun h => Bool.noConfusion h
  compare := fun h => Bool.noConfusion h.1

/-! ## A compare sets at most one of its two flags -/

theorem not_ult_and_equal (a b : Word) : ¬(ult a b = true ∧ equal a b = true) := by
  simp only [ult_eq, equal_eq, decide_eq_true_eq]
  rintro ⟨hlt, rfl⟩
  exact Nat.lt_irrefl _ hlt

theorem not_slt_and_equal (a b : Word) : ¬(slt a b = true ∧ equal a b = true) := by
  simp only [slt_eq, equal_eq, decide_eq_true_eq]
  rintro ⟨hlt, rfl⟩
  exact Int.lt_irrefl _ hlt

/-! ## A formatted text fits into TXT -/

/-- The loop of R123 adds at most one digit for each unit of fuel. -/
theorem length_formatDigits_le (radix fuel : Nat) (m : Word) (digits : List Byte) :
    (formatDigits radix fuel m digits).length ≤ fuel + digits.length := by
  induction fuel generalizing m digits with
  | zero => simp [formatDigits]
  | succ fuel ih =>
    simp only [formatDigits]
    split
    · omega
    · refine (ih _ _).trans ?_
      rw [List.length_cons]
      omega

/-- A sign and at most 128 digits (46_text_codec.md R124). -/
theorem length_formatText_le (signed : Bool) (radix : Nat) (x : Word) :
    (formatText signed radix x).length ≤ maxDigits + 1 := by
  have hdigits (m : Word) :
      (if m.toNat = 0 then [0x30#8] else formatDigits radix maxDigits m []).length ≤ maxDigits := by
    split
    · decide
    · exact length_formatDigits_le radix maxDigits m []
  simp only [formatText]
  split
  · exact Nat.succ_le_succ (hdigits _)
  · exact Nat.le_succ_of_le (hdigits _)

/-! ## Every command keeps the invariant -/

theorem formatCommand_keeps_inv {signed : Bool} {rs1 : Reg} {radix : Byte} {s t : State}
    (hs : s.Inv) (h : formatCommand signed rs1 radix s = .next t) : t.Inv := by
  have hlen : (formatText signed radix.toNat (s.reg rs1)).length ≤ Config.txtSize :=
    (length_formatText_le ..).trans (by decide)
  obtain rfl | rfl := next_of_check h
  · exact hs.enterFault (by decide)
  · refine (hs.writeTextAt0 hlen).setTlen ?_
    rw [BitVec.toNat_ofNat]
    exact (Nat.mod_le _ _).trans hlen

/-- INDEX_RANGE keeps a length above 256 out of TLEN (46_text_codec.md R128). -/
theorem execTsetlen_keeps_inv {s t : State} (hs : s.Inv) (h : execTsetlen s = .next t) : t.Inv := by
  unfold execTsetlen at h
  split at h
  next => cases h; exact hs.enterFault (by decide)
  next hle =>
    cases h
    refine hs.setTlen ?_
    rw [BitVec.toNat_ofNat]
    exact (Nat.mod_le _ _).trans (Nat.le_of_not_lt hle)

/-- Every shape of update keeps the invariant, those apart whose values the shape leaves open: the two
flags of a compare, a new TLEN, a formatted text. -/
theorem Effect.keeps_inv {i : Instr} {s t : State} (h : Effect i s t)
    (hm : i.mnemonic ∉ ["CMPU", "CMPS", "TSETLEN", "FMTU", "FMTS"]) (hs : s.Inv) : t.Inv := by
  cases h with
  | nothing => exact hs
  | fault hc => exact hs.enterFault hc
  | setReg => exact hs.setReg _ _
  | setReg2 => exact (hs.setReg _ _).setReg _ _
  | setRegO | parsePresent => exact (hs.setReg _ _).setFlags hs.compare
  | setReg2O => exact ((hs.setReg _ _).setReg _ _).setFlags hs.compare
  | parseAbsent => exact hs.setFlags hs.compare
  | setDataOut => exact hs.setDataOut _
  | convert => exact (hs.setDataOut _).setFlags hs.compare
  | writeTxt => exact hs.writeTxt (BitVec.isLt _) _
  | compare hw => exact absurd (List.mem_append_left ["TSETLEN", "FMTU", "FMTS"] hw) hm
  | setTlen hw => simp [hw] at hm
  | format hw => exact absurd (List.mem_append_right ["CMPU", "CMPS", "TSETLEN"] hw) hm

theorem exec_keeps_inv {i : Instr} {s t : State} (hs : s.Inv) (h : exec i s = .next t) : t.Inv := by
  cases i with
  | cmpu => cases h; exact hs.setFlags (not_ult_and_equal _ _)
  | cmps => cases h; exact hs.setFlags (not_slt_and_equal _ _)
  | tsetlen => exact execTsetlen_keeps_inv hs h
  | fmtu | fmts => exact formatCommand_keeps_inv hs h
  | _ => exact (exec_effect h).keeps_inv (by simp [Instr.mnemonic]) hs

/-! ## The obligations -/

/-- Settles O13, by the ways a step answers: idle, reset, a command discarded, a word that stands for no
command, a command run. -/
theorem stepKeepsTheInvariant : Obligations.StepKeepsTheInvariant := by
  intro s t hs h
  obtain ⟨-, rfl⟩ | ⟨_, -, rfl⟩ | ⟨_, _, -, -, rfl⟩ | ⟨_, _, _, -, -, -, rfl⟩ |
    ⟨_, _, _, u, -, -, -, hu, rfl⟩ := step_cases h
  · exact hs
  · exact (resetWith_inv _ _ _).consume
  · exact hs.consume
  · exact (hs.enterFault (by decide)).consume
  · exact (exec_keeps_inv hs hu).consume

/-- Settles O25: a read looks the address up in the written bytes, and only without one takes the free
value. -/
theorem txtReadsTheByteLastWritten : Obligations.TxtReadsTheByteLastWritten := by
  refine ⟨readTxt_writeTxt, fun s a hnone => ?_, fun s a v => ?_⟩
  · rw [State.readTxt, hnone, Option.getD_none]
  · rw [writeTxt_txt, Memory.read?_write, if_pos rfl]

end Sys2Proof.Machine
end

section
/-! PROOFS. The encoding family (30_encoding.md). A word is its six fields, and a row of the opcode map
selects a word by these fields; what the decoder must answer for a word of a row's opcode is said once
(`Row.Answers`), proved class by class (R51) and then for every row of the map (`decode_answers`). The
round trip, the agreement with the map and the illegal words follow from it. Then the step: from a state
that meets the invariant it always answers, and a command that does not read DATA_IN ignores it. -/

namespace Sys2Proof

/-! ## A word and its six fields -/

/-- A word is a packed word exactly when its fields are those packed. -/
theorem eq_pack_iff {opc : BitVec 8} {rd rd2 rs1 rs2 : Reg} {imm : Byte} {w : CmdWord} :
    w = pack opc rd rd2 rs1 rs2 imm ↔
      opcField w = opc ∧ rdField w = rd ∧ rd2Field w = rd2 ∧ rs1Field w = rs1 ∧ rs2Field w = rs2 ∧
        immField w = imm := by
  constructor
  · rintro rfl
    simp
  · rintro ⟨rfl, rfl, rfl, rfl, rfl, rfl⟩
    exact (pack_fields w).symm

section
variable (v w : CmdWord)

theorem opcField_and : opcField (v &&& w) = opcField v &&& opcField w := BitVec.extractLsb'_and

theorem rdField_and : rdField (v &&& w) = rdField v &&& rdField w := by
  simp only [rdField, BitVec.extractLsb'_and, BitVec.toFin_and]

theorem rd2Field_and : rd2Field (v &&& w) = rd2Field v &&& rd2Field w := by
  simp only [rd2Field, BitVec.extractLsb'_and, BitVec.toFin_and]

theorem rs1Field_and : rs1Field (v &&& w) = rs1Field v &&& rs1Field w := by
  simp only [rs1Field, BitVec.extractLsb'_and, BitVec.toFin_and]

theorem rs2Field_and : rs2Field (v &&& w) = rs2Field v &&& rs2Field w := by
  simp only [rs2Field, BitVec.extractLsb'_and, BitVec.toFin_and]

theorem immField_and : immField (v &&& w) = immField v &&& immField w := BitVec.extractLsb'_and

end

/-- The opcode byte of a word written as a number. -/
theorem opcField_ofNat (n : Nat) :
    opcField (BitVec.ofNat 32 n) = BitVec.ofNat 8 (n / 2 ^ 24) := by
  apply BitVec.eq_of_toNat_eq
  simp only [opcField, BitVec.extractLsb'_toNat, BitVec.toNat_ofNat, Nat.shiftRight_eq_div_pow]
  omega

@[simp] theorem reg_and_zero (r : Reg) : r &&& 0 = 0 := by decide +revert
@[simp] theorem reg_and_fifteen (r : Reg) : r &&& 15 = r := by decide +revert
@[simp] theorem byte_and_allOnes (b : Byte) : b &&& 0xFF#8 = b := BitVec.and_allOnes

/-- A byte is a CVT selector (R54) exactly when its bits 7:4 are zero. -/
@[simp] theorem eq_cvtImm_iff (b : Byte) :
    b = cvtImm (cvtWidthOf (b.extractLsb' 0 2)) b[2] b[3] ↔
      b.extractLsb' 4 4 = 0#4 := by
  decide +revert

@[simp] theorem and_high_eq_zero_iff (b : Byte) : b &&& 0xF0#8 = 0#8 ↔ b.extractLsb' 4 4 = 0#4 := by
  decide +revert

/-- The check of class DEST is the exception of 10_state.md R26. -/
theorem destsOk_iff (rd rd2 : Reg) : destsOk rd rd2 = true ↔ ¬(rd = rd2 ∧ rd ≠ 0) := by
  simp only [destsOk, Bool.or_eq_true, beq_iff_eq, bne_iff_ne, not_and_or, not_not, or_comm]

/-- A row whose mask is given field by field selects a word of its opcode exactly when the masked
fields are zero (R56). -/
theorem selects_iff {m : String} {dest : Bool} {opc : BitVec 8} {mrd mrd2 mrs1 mrs2 : Reg}
    {mimm : Byte} {w : CmdWord} (hw : opcField w = opc) :
    (Row.mk m (pack opc 0 0 0 0 0#8) (pack 0xFF#8 mrd mrd2 mrs1 mrs2 mimm) dest).selects w = true ↔
      rdField w &&& mrd = 0 ∧ rd2Field w &&& mrd2 = 0 ∧ rs1Field w &&& mrs1 = 0 ∧
        rs2Field w &&& mrs2 = 0 ∧ immField w &&& mimm = 0#8 := by
  rw [Row.selects, beq_iff_eq, eq_pack_iff]
  simp only [opcField_and, rdField_and, rd2Field_and, rs1Field_and, rs2Field_and, immField_and,
    opcField_pack, rdField_pack, rd2Field_pack, rs1Field_pack, rs2Field_pack, immField_pack, hw,
    byte_and_allOnes, true_and]

/-! ## What the decoder must answer for a word of a row's opcode -/

/-- `r.Answers w d`: `d` is what R56 and R57 ask of the decoder for a word `w` of the opcode of row `r`.
A word the row does not select has a must-be-zero bit set; a selected one stands for a command of the row
whose encoding it is, unless it names one non-zero register twice (10_state.md R26). -/
inductive Row.Answers (r : Row) (w : CmdWord) : Except Reject Instr → Prop
  | mustBeZero (hs : r.selects w = false) : r.Answers w (.error .mustBeZero)
  | sameDestinations (hs : r.selects w = true)
      (hd : r.dest = true ∧ rdField w = rd2Field w ∧ rdField w ≠ 0) :
      r.Answers w (.error .sameDestinations)
  | command {i : Instr} (hs : r.selects w = true)
      (hd : ¬(r.dest = true ∧ rdField w = rd2Field w ∧ rdField w ≠ 0))
      (hm : i.mnemonic = r.mnemonic) (hwf : i.wf = true) (he : i ≠ .divfw → encode i = w) :
      r.Answers w (.ok i)

/-- A class without a second destination: the row selects the word, and the class's unused fields are
zero, exactly when the word is the encoding `v` of the command its fields name. -/
theorem answers_requireZero {r : Row} {v w : CmdWord} {unused : Bool} {i : Instr}
    (hi : encode i = v ∧ i.mnemonic = r.mnemonic ∧ i.wf = true) (hd : r.dest = false)
    (hs : r.selects w = true ↔ w = v) (hu : unused = true ↔ w = v) :
    r.Answers w (requireZero unused i) := by
  obtain ⟨he, hm, hwf⟩ := hi
  unfold requireZero
  split
  next h =>
    have hv : w = v := hu.mp h
    exact .command (hs.mpr hv) (by simp [hd]) hm hwf fun _ => he.trans hv.symm
  next h => exact .mustBeZero (by rwa [← Bool.not_eq_true, hs, ← hu])

/-! Each class's form answers for the rows of its mask (R51). -/

section
variable {opc : BitVec 8} {w : CmdWord} {m : String}

theorem formZ_answers {i : Instr} (hw : opcField w = opc)
    (hi : encode i = pack opc 0 0 0 0 0#8 ∧ i.mnemonic = m ∧ i.wf = true) :
    Row.Answers ⟨m, pack opc 0 0 0 0 0#8, pack 0xFF#8 15 15 15 15 0xFF#8, false⟩ w (formZ w i) :=
  answers_requireZero hi rfl (by simp [selects_iff, eq_pack_iff, hw])
    (by simp [eq_pack_iff, hw, and_assoc])

theorem formD_answers {f : Reg → Instr} (hw : opcField w = opc)
    (hf : ∀ rd, encode (f rd) = pack opc rd 0 0 0 0#8 ∧ (f rd).mnemonic = m ∧ (f rd).wf = true) :
    Row.Answers ⟨m, pack opc 0 0 0 0 0#8, pack 0xFF#8 0 15 15 15 0xFF#8, false⟩ w (formD w f) :=
  answers_requireZero (hf _) rfl (by simp [selects_iff, eq_pack_iff, hw])
    (by simp [eq_pack_iff, hw, and_assoc])

theorem formS_answers {f : Reg → Instr} (hw : opcField w = opc)
    (hf : ∀ rs1, encode (f rs1) = pack opc 0 0 rs1 0 0#8 ∧ (f rs1).mnemonic = m ∧
      (f rs1).wf = true) :
    Row.Answers ⟨m, pack opc 0 0 0 0 0#8, pack 0xFF#8 15 15 0 15 0xFF#8, false⟩ w (formS w f) :=
  answers_requireZero (hf _) rfl (by simp [selects_iff, eq_pack_iff, hw])
    (by simp [eq_pack_iff, hw, and_assoc])

theorem formSI_answers {f : Reg → Byte → Instr} (hw : opcField w = opc)
    (hf : ∀ rs1 imm, encode (f rs1 imm) = pack opc 0 0 rs1 0 imm ∧ (f rs1 imm).mnemonic = m ∧
      (f rs1 imm).wf = true) :
    Row.Answers ⟨m, pack opc 0 0 0 0 0#8, pack 0xFF#8 15 15 0 15 0#8, false⟩ w (formSI w f) :=
  answers_requireZero (hf _ _) rfl (by simp [selects_iff, eq_pack_iff, hw])
    (by simp [eq_pack_iff, hw, and_assoc])

theorem formSC_answers {f : Reg → CvtWidth → Bool → Bool → Instr} (hw : opcField w = opc)
    (hf : ∀ rs1 width ts ss, encode (f rs1 width ts ss) = pack opc 0 0 rs1 0 (cvtImm width ts ss) ∧
      (f rs1 width ts ss).mnemonic = m ∧ (f rs1 width ts ss).wf = true) :
    Row.Answers ⟨m, pack opc 0 0 0 0 0#8, pack 0xFF#8 15 15 0 15 0xF0#8, false⟩ w (formSC w f) :=
  answers_requireZero (hf _ _ _ _) rfl (by simp [selects_iff, eq_pack_iff, hw])
    (by simp [eq_pack_iff, hw, and_assoc])

theorem formDI_answers {f : Reg → Byte → Instr} (hw : opcField w = opc)
    (hf : ∀ rd imm, encode (f rd imm) = pack opc rd 0 0 0 imm ∧ (f rd imm).mnemonic = m ∧
      (f rd imm).wf = true) :
    Row.Answers ⟨m, pack opc 0 0 0 0 0#8, pack 0xFF#8 0 15 15 15 0#8, false⟩ w (formDI w f) :=
  answers_requireZero (hf _ _) rfl (by simp [selects_iff, eq_pack_iff, hw])
    (by simp [eq_pack_iff, hw, and_assoc])

theorem formI_answers {f : Byte → Instr} (hw : opcField w = opc)
    (hf : ∀ imm, encode (f imm) = pack opc 0 0 0 0 imm ∧ (f imm).mnemonic = m ∧
      (f imm).wf = true) :
    Row.Answers ⟨m, pack opc 0 0 0 0 0#8, pack 0xFF#8 15 15 15 15 0#8, false⟩ w (formI w f) :=
  answers_requireZero (hf _) rfl (by simp [selects_iff, eq_pack_iff, hw])
    (by simp [eq_pack_iff, hw, and_assoc])

theorem formDS_answers {f : Reg → Reg → Instr} (hw : opcField w = opc)
    (hf : ∀ rd rs1, encode (f rd rs1) = pack opc rd 0 rs1 0 0#8 ∧ (f rd rs1).mnemonic = m ∧
      (f rd rs1).wf = true) :
    Row.Answers ⟨m, pack opc 0 0 0 0 0#8, pack 0xFF#8 0 15 0 15 0xFF#8, false⟩ w (formDS w f) :=
  answers_requireZero (hf _ _) rfl (by simp [selects_iff, eq_pack_iff, hw])
    (by simp [eq_pack_iff, hw, and_assoc])

theorem formDST_answers {f : Reg → Reg → Reg → Instr} (hw : opcField w = opc)
    (hf : ∀ rd rs1 rs2, encode (f rd rs1 rs2) = pack opc rd 0 rs1 rs2 0#8 ∧
      (f rd rs1 rs2).mnemonic = m ∧ (f rd rs1 rs2).wf = true) :
    Row.Answers ⟨m, pack opc 0 0 0 0 0#8, pack 0xFF#8 0 15 0 0 0xFF#8, false⟩ w (formDST w f) :=
  answers_requireZero (hf _ _ _) rfl (by simp [selects_iff, eq_pack_iff, hw])
    (by simp [eq_pack_iff, hw])

theorem formST_answers {f : Reg → Reg → Instr} (hw : opcField w = opc)
    (hf : ∀ rs1 rs2, encode (f rs1 rs2) = pack opc 0 0 rs1 rs2 0#8 ∧ (f rs1 rs2).mnemonic = m ∧
      (f rs1 rs2).wf = true) :
    Row.Answers ⟨m, pack opc 0 0 0 0 0#8, pack 0xFF#8 15 15 0 0 0xFF#8, false⟩ w (formST w f) :=
  answers_requireZero (hf _ _) rfl (by simp [selects_iff, eq_pack_iff, hw])
    (by simp [eq_pack_iff, hw, and_assoc])

theorem formDEST_answers {f : Reg → Reg → Reg → Reg → Instr} (hw : opcField w = opc)
    (hf : ∀ rd rd2 rs1 rs2, encode (f rd rd2 rs1 rs2) = pack opc rd rd2 rs1 rs2 0#8 ∧
      (f rd rd2 rs1 rs2).mnemonic = m ∧ (f rd rd2 rs1 rs2).wf = destsOk rd rd2) :
    Row.Answers ⟨m, pack opc 0 0 0 0 0#8, pack 0xFF#8 0 0 0 0 0xFF#8, true⟩ w (formDEST w f) := by
  obtain ⟨he, hm, hwf⟩ := hf (rdField w) (rd2Field w) (rs1Field w) (rs2Field w)
  have hs : (Row.mk m (pack opc 0 0 0 0 0#8) (pack 0xFF#8 0 0 0 0 0xFF#8) true).selects w = true ↔
      immField w = 0#8 := by simp [selects_iff hw]
  unfold formDEST
  split
  next h =>
    have himm : immField w = 0#8 := beq_iff_eq.mp h
    split
    next hd =>
      have hv := eq_pack_iff.mpr ⟨hw, rfl, rfl, rfl, rfl, himm⟩
      exact .command (hs.mpr himm) (by simpa using (destsOk_iff _ _).mp hd) hm (hwf.trans hd)
        fun _ => he.trans hv.symm
    next hd => exact .sameDestinations (hs.mpr himm) (by simpa [destsOk_iff] using hd)
  next h => exact .mustBeZero (by rwa [← Bool.not_eq_true, hs, ← beq_iff_eq])

/-- Class X: the row of DIVFW selects every word of its opcode (R58, 44_divide.md R102). -/
theorem divfw_answers (hw : opcField w = opc) :
    Row.Answers ⟨"DIVFW", pack opc 0 0 0 0 0#8, pack 0xFF#8 0 0 0 0 0#8, false⟩ w (.ok .divfw) :=
  .command (by simp [selects_iff hw]) (by simp) rfl rfl fun h => absurd rfl h

end

/-! ## Every row of the opcode map -/

section
variable {r : Row} {w : CmdWord}

/-- A word with the opcode of a row decodes as that row asks (R56, R57): each row by its class. -/
theorem decode_answers (hr : r ∈ opcodeMap) (hw : opcField w = opcField r.pattern) :
    r.Answers w (decode w) := by
  simp only [opcodeMap, transferRows, addSubRows, multiplyRows, divideRows, signRows, logicRows,
    textRows, List.cons_append, List.nil_append] at hr
  fin_cases hr <;> simp only [opcField_ofNat, Nat.reducePow, Nat.reduceDiv] at hw <;>
    simp only [decode, hw]
  -- NOP to CVT
  iterate 2 exact formZ_answers hw ⟨rfl, rfl, rfl⟩
  iterate 6 exact formD_answers hw fun _ => ⟨rfl, rfl, rfl⟩
  iterate 2 exact formS_answers hw fun _ => ⟨rfl, rfl, rfl⟩
  · exact formSI_answers hw fun _ _ => ⟨rfl, rfl, rfl⟩
  · exact formSC_answers hw fun _ _ _ _ => ⟨rfl, rfl, rfl⟩
  -- ADDW to MULSO, then MULUF to DIVFW
  iterate 15 exact formDST_answers hw fun _ _ _ => ⟨rfl, rfl, rfl⟩
  iterate 6 exact formDEST_answers hw fun _ _ _ _ => ⟨rfl, rfl, rfl⟩
  · exact divfw_answers hw
  -- NEG and MAG, then AND to CMPS
  iterate 2 exact formDS_answers hw fun _ _ => ⟨rfl, rfl, rfl⟩
  iterate 3 exact formDST_answers hw fun _ _ _ => ⟨rfl, rfl, rfl⟩
  · exact formDS_answers hw fun _ _ => ⟨rfl, rfl, rfl⟩
  iterate 6 exact formDST_answers hw fun _ _ _ => ⟨rfl, rfl, rfl⟩
  iterate 2 exact formST_answers hw fun _ _ => ⟨rfl, rfl, rfl⟩
  -- TWR to FMTS
  iterate 2 exact formI_answers hw fun _ => ⟨rfl, rfl, rfl⟩
  iterate 2 exact formZ_answers hw ⟨rfl, rfl, rfl⟩
  iterate 2 exact formDI_answers hw fun _ _ => ⟨rfl, rfl, rfl⟩
  iterate 2 exact formSI_answers hw fun _ _ => ⟨rfl, rfl, rfl⟩

/-! ## The opcode bytes of the map -/

/-- The opcode bytes of R56, row by row. -/
def opcodeBytes : List (BitVec 8) := opcodeMap.map fun r => opcField r.pattern

/-- R56 gives no opcode byte twice. -/
theorem opcodeBytes_nodup : opcodeBytes.Nodup := by decide

/-- A row that selects a word has the word's opcode, as every mask holds the whole opcode byte. -/
theorem opcField_eq_of_selects (hr : r ∈ opcodeMap) (hs : r.selects w = true) :
    opcField w = opcField r.pattern := by
  have hmask : ∀ r ∈ opcodeMap, opcField r.mask = 0xFF#8 := by decide
  rw [← beq_iff_eq.mp hs, opcField_and, hmask r hr, byte_and_allOnes]

/-- A word whose opcode is in no row is rejected as unassigned (R57). -/
theorem decode_unassigned (h : opcField w ∉ opcodeBytes) : decode w = .error .unassignedOpcode := by
  unfold decode
  split
  iterate 56 (next ho => exact absurd (by rw [ho]; decide) h)
  rfl

/-- A word that decodes has the opcode of some row. -/
theorem exists_row_of_decode_ok {i : Instr} (h : decode w = .ok i) :
    ∃ r ∈ opcodeMap, opcField w = opcField r.pattern := by
  by_contra hno
  have hopc : opcField w ∉ opcodeBytes := by
    simpa [opcodeBytes, eq_comm] using hno
  rw [decode_unassigned hopc] at h
  cases h

end

/-! ## Words that stand for no command (R58) -/

/-- A word of a row's opcode that the row does not select has a must-be-zero bit set. -/
theorem decode_mustBeZero {r : Row} {w : CmdWord} (hr : r ∈ opcodeMap)
    (hw : opcField w = opcField r.pattern) (hs : r.selects w = false) :
    decode w = .error .mustBeZero := by
  have ha := decode_answers hr hw
  generalize decode w = d at ha ⊢
  cases ha with
  | mustBeZero => rfl
  | sameDestinations hs' | command hs' => rw [hs] at hs'; cases hs'

/-- The opcode bytes R58 lists as unassigned. -/
def ListedUnassigned (n : Nat) : Prop :=
  (0x02 ≤ n ∧ n ≤ 0x0F) ∨ (0x1A ≤ n ∧ n ≤ 0x1F) ∨ (0x25 ≤ n ∧ n ≤ 0x27) ∨
  (0x2D ≤ n ∧ n ≤ 0x2F) ∨ (0x37 ≤ n ∧ n ≤ 0x3F) ∨ (0x45 ≤ n ∧ n ≤ 0x47) ∨
  (0x4A ≤ n ∧ n ≤ 0x4F) ∨ (0x54 ≤ n ∧ n ≤ 0x57) ∨ n = 0x5B ∨ n = 0x5F ∨
  (0x62 ≤ n ∧ n ≤ 0x6F) ∨ 0x78 ≤ n

/-- No listed opcode is in a row of R56. -/
theorem not_listedUnassigned_of_mem {opc : BitVec 8} (h : opc ∈ opcodeBytes) :
    ¬ListedUnassigned opc.toNat := by
  have hall : ∀ opc ∈ opcodeBytes, ¬ListedUnassigned opc.toNat := by
    unfold ListedUnassigned
    decide
  exact hall opc h

/-! ## The word of a command's operands decodes to the command, class by class (R51) -/

section
variable {opc : BitVec 8}

theorem formZ_pack {i : Instr} : formZ (pack opc 0 0 0 0 0#8) i = .ok i := by
  simp [formZ, requireZero]

theorem formD_pack {f : Reg → Instr} {rd : Reg} :
    formD (pack opc rd 0 0 0 0#8) f = .ok (f rd) := by
  simp [formD, requireZero]

theorem formS_pack {f : Reg → Instr} {rs1 : Reg} :
    formS (pack opc 0 0 rs1 0 0#8) f = .ok (f rs1) := by
  simp [formS, requireZero]

theorem formSI_pack {f : Reg → Byte → Instr} {rs1 : Reg} {imm : Byte} :
    formSI (pack opc 0 0 rs1 0 imm) f = .ok (f rs1 imm) := by
  simp [formSI, requireZero]

theorem formSC_pack {f : Reg → CvtWidth → Bool → Bool → Instr} {rs1 : Reg} {width : CvtWidth}
    {ts ss : Bool} :
    formSC (pack opc 0 0 rs1 0 (cvtImm width ts ss)) f = .ok (f rs1 width ts ss) := by
  simp [formSC, requireZero]

theorem formDI_pack {f : Reg → Byte → Instr} {rd : Reg} {imm : Byte} :
    formDI (pack opc rd 0 0 0 imm) f = .ok (f rd imm) := by
  simp [formDI, requireZero]

theorem formI_pack {f : Byte → Instr} {imm : Byte} :
    formI (pack opc 0 0 0 0 imm) f = .ok (f imm) := by
  simp [formI, requireZero]

theorem formDS_pack {f : Reg → Reg → Instr} {rd rs1 : Reg} :
    formDS (pack opc rd 0 rs1 0 0#8) f = .ok (f rd rs1) := by
  simp [formDS, requireZero]

theorem formDST_pack {f : Reg → Reg → Reg → Instr} {rd rs1 rs2 : Reg} :
    formDST (pack opc rd 0 rs1 rs2 0#8) f = .ok (f rd rs1 rs2) := by
  simp [formDST, requireZero]

theorem formST_pack {f : Reg → Reg → Instr} {rs1 rs2 : Reg} :
    formST (pack opc 0 0 rs1 rs2 0#8) f = .ok (f rs1 rs2) := by
  simp [formST, requireZero]

theorem formDEST_pack {f : Reg → Reg → Reg → Reg → Instr} {rd rd2 rs1 rs2 : Reg}
    (hd : destsOk rd rd2 = true) :
    formDEST (pack opc rd rd2 rs1 rs2 0#8) f = .ok (f rd rd2 rs1 rs2) := by
  simp [formDEST, hd]

end

end Sys2Proof

namespace Sys2Proof.Machine

/-! ## A step with no command run -/

theorem step_of_no_input {s : State} (hp : s.port = []) : step s = .next s := by
  simp [step, stepWith, hp]

theorem step_of_reset {s : State} {rest : List Input} (hp : s.port = .reset :: rest) :
    step s = .next s.assertReset.consume := by
  simp [step, stepWith, hp]

theorem step_of_faulted {s : State} {c : Command} {rest : List Input}
    (hp : s.port = .command c :: rest) (hf : s.status.faulted = true) :
    step s = .next s.consume := by
  simp [step, stepWith, hp, acceptCommand, hf]

/-! ## Every command but a PARSE past TXT answers a next state -/

/-- A check before a command that answers leaves it answering. -/
theorem exists_next_of_check {p : Prop} [Decidable p] {c : Cause} {s : State} {r : Result}
    (h : ∃ t, r = .next t) : ∃ t, (if p then raiseFault c s else r) = .next t := by
  split
  · exact ⟨_, rfl⟩
  · exact h

/-- With TLEN at most 256 no command stops the machine (log 10). -/
theorem exec_answers_next (i : Instr) {s : State} (hl : s.tlen.toNat ≤ Config.txtSize) :
    ∃ t, exec i s = .next t := by
  cases i with
  | ldus | ldbit | addu | adds | subu | subs | mulu | muls | divu | neg | word | tsetlen | fmtu
  | fmts => exact exists_next_of_check ⟨_, rfl⟩
  | divs => exact exists_next_of_check (exists_next_of_check ⟨_, rfl⟩)
  | divuo | divso =>
    simp only [exec, execDivuo, execDivso]
    split <;> exact ⟨_, rfl⟩
  | cvt =>
    simp only [exec, execCvt]
    split <;> exact ⟨_, rfl⟩
  | parseu | parses =>
    refine exists_next_of_check ?_
    rw [if_neg (Nat.not_lt.mpr hl)]
    split <;> exact ⟨_, rfl⟩
  | _ => exact ⟨_, rfl⟩

/-! ## A command under other inputs -/

/-- The state with other inputs to come. -/
def State.withPort (s : State) (p : List Input) : State := { s with port := p }

/-- The outcome with other inputs to come. -/
def withPortAfter (p : List Input) : Result → Result
  | .next t => .next (t.withPort p)
  | .fault f => .fault f
  | .refused r => .refused r

section
variable {s : State} {p : List Input}

theorem setReg_withPort (r : Reg) (v : Word) :
    (s.withPort p).setReg r v = (s.setReg r v).withPort p := by
  unfold State.setReg
  split <;> rfl

theorem next_withPort {t t' : State} (h : t' = t.withPort p) :
    (.next t' : Result) = withPortAfter p (.next t) := congrArg Host.Outcome.next h

/-- One register write. -/
theorem setReg_next_withPort {r : Reg} {v : Word} :
    (.next ((s.withPort p).setReg r v) : Result) = withPortAfter p (.next (s.setReg r v)) :=
  next_withPort (setReg_withPort r v)

/-- Two register writes. -/
theorem setReg2_next_withPort {r r2 : Reg} {v v2 : Word} :
    (.next (((s.withPort p).setReg r v).setReg r2 v2) : Result) =
      withPortAfter p (.next ((s.setReg r v).setReg r2 v2)) :=
  next_withPort (by rw [setReg_withPort, setReg_withPort])

/-- FLAGS is replaced after updates that do not look at the inputs. -/
theorem setFlags_next_withPort {t t' : State} {f : Flags}
    (h : (.next t' : Result) = withPortAfter p (.next t)) :
    (.next (t'.setFlags f) : Result) = withPortAfter p (.next (t.setFlags f)) := by
  cases h
  rfl

theorem ite_withPort {q : Prop} [Decidable q] {a a' b b' : Result}
    (ha : a' = withPortAfter p a) (hb : b' = withPortAfter p b) :
    (if q then a' else b') = withPortAfter p (if q then a else b) := by
  split
  · exact ha
  · exact hb

/-- TWR reads bits 7:0 of DATA_IN (46_text_codec.md R126). -/
theorem execTwr_withPort (addr : Byte)
    (hd : (s.withPort p).dataIn.extractLsb' 0 8 = s.dataIn.extractLsb' 0 8) :
    execTwr addr (s.withPort p) = withPortAfter p (execTwr addr s) := by
  rw [execTwr, hd]
  rfl

variable (hw : (s.withPort p).cmdWord = s.cmdWord)
include hw

/-- Fault entry reads the command word, which stays the same. -/
theorem raiseFault_withPort {c : Cause} :
    raiseFault c (s.withPort p) = withPortAfter p (raiseFault c s) :=
  next_withPort (by rw [State.enterFault, hw]; rfl)

theorem parseCommand_withPort (signed : Bool) (rd : Reg) (radix : Byte) :
    parseCommand signed rd radix (s.withPort p) = withPortAfter p (parseCommand signed rd radix s) := by
  have htext : (s.withPort p).text = s.text := rfl
  unfold parseCommand
  rw [htext]
  refine ite_withPort (raiseFault_withPort hw) (ite_withPort rfl ?_)
  cases parseText signed radix.toNat s.text with
  | some v => exact setFlags_next_withPort setReg_next_withPort
  | none => rfl

/-- The commands that read DATA_IN (30_encoding.md R55). -/
def dataInReaders : List String :=
  ["LDLO", "LDHI", "LDU", "LDS", "LDUS", "LDBIT", "TWR", "TSETLEN"]

/-- A command that does not read DATA_IN runs the same whatever inputs are to come. -/
theorem exec_withPort {i : Instr} (hi : i.mnemonic ∉ dataInReaders) :
    exec i (s.withPort p) = withPortAfter p (exec i s) := by
  cases i with
  | ldlo | ldhi | ldu | lds | ldus | ldbit | twr | tsetlen =>
    simp [Instr.mnemonic, dataInReaders] at hi
  | nop | rdflags | rdlo | rdhi | cmpu | cmps | trd | tgetlen => rfl
  | divfw => exact raiseFault_withPort hw
  | addw | subw | mulw | mag | and | or | xor | not | sll | srl | sra | sllm | srlm | sram =>
    exact setReg_next_withPort
  | addu | adds | subu | subs | mulu | muls | neg =>
    exact ite_withPort (raiseFault_withPort hw) setReg_next_withPort
  | adduo | addso | subuo | subso | muluo | mulso =>
    exact setFlags_next_withPort setReg_next_withPort
  | muluf | mulsf => exact setReg2_next_withPort
  | divu => exact ite_withPort (raiseFault_withPort hw) setReg2_next_withPort
  | divs =>
    exact ite_withPort (raiseFault_withPort hw)
      (ite_withPort (raiseFault_withPort hw) setReg2_next_withPort)
  | divuo | divso =>
    exact ite_withPort (setFlags_next_withPort setReg2_next_withPort)
      (setFlags_next_withPort setReg2_next_withPort)
  | word | fmtu | fmts => exact ite_withPort (raiseFault_withPort hw) rfl
  | cvt => exact ite_withPort rfl rfl
  | parseu | parses => exact parseCommand_withPort hw ..

end

/-! ## The obligations -/

/-- Settles O1, class by class: the class's fields read back as they were put in. -/
theorem decodeOfEncodeIsTheCommand : Obligations.DecodeOfEncodeIsTheCommand := by
  intro i hwf
  cases i <;> simp only [encode, decode, opcField_pack]
  case nop | rdflags | tsetlen | tgetlen => exact formZ_pack
  case ldlo | ldhi | ldu | lds | ldus | ldbit => exact formD_pack
  case rdlo | rdhi => exact formS_pack
  case word | fmtu | fmts => exact formSI_pack
  case cvt => exact formSC_pack
  case parseu | parses => exact formDI_pack
  case twr | trd => exact formI_pack
  case neg | mag | not => exact formDS_pack
  case cmpu | cmps => exact formST_pack
  case muluf | mulsf | divu | divs | divuo | divso => exact formDEST_pack hwf
  -- the commands left are of class DST
  all_goals exact formDST_pack

/-- Settles O2: the answer of the word's row says it. -/
theorem encodeOfDecodeIsTheWord : Obligations.EncodeOfDecodeIsTheWord := by
  have hdivfw : ∀ r ∈ opcodeMap, r.mnemonic = "DIVFW" → opcField r.pattern = 0x44#8 := by decide
  intro w i h
  obtain ⟨r, hr, hw⟩ := exists_row_of_decode_ok h
  have ha := decode_answers hr hw
  rw [h] at ha
  cases ha with
  | command _ _ hm hwf he =>
    refine ⟨hwf, he, ?_⟩
    rintro rfl
    exact hw.trans (hdivfw r hr hm.symm)

/-- Settles O3: a word that decodes has a row's opcode, a selected word has its row's opcode, and the
row's answer says the rest. -/
theorem decoderFollowsTheOpcodeMap : Obligations.DecoderFollowsTheOpcodeMap := by
  refine fun w => ⟨fun i h => ?_, fun r hr hs hd => ?_⟩
  · obtain ⟨r, hr, hw⟩ := exists_row_of_decode_ok h
    have ha := decode_answers hr hw
    rw [h] at ha
    cases ha with
    | command hs hd hm => exact ⟨r, hr, hs, hm.symm, hd⟩
  · have ha := decode_answers hr (opcField_eq_of_selects hr hs)
    generalize decode w = d at ha
    cases ha with
    | mustBeZero hs' => rw [hs] at hs'; cases hs'
    | sameDestinations _ hd' => exact absurd hd' hd
    | @command i _ _ hm => exact ⟨i, rfl, hm⟩

/-- Settles O4: two rows that select one word have its opcode, and no two rows share an opcode. -/
theorem noWordMatchesTwoRows : Obligations.NoWordMatchesTwoRows := by
  refine ⟨rfl, fun w r hr r' hr' hs hs' => List.inj_on_of_nodup_map opcodeBytes_nodup hr hr' ?_⟩
  exact (opcField_eq_of_selects hr hs).symm.trans (opcField_eq_of_selects hr' hs')

/-- The word 0 is the only NOP: by O2 a word that decodes to NOP is NOP's encoding. -/
theorem decode_eq_nop_iff (w : CmdWord) : decode w = .ok .nop ↔ w = 0#32 := by
  constructor
  · intro h
    obtain ⟨-, he, -⟩ := encodeOfDecodeIsTheWord w .nop h
    exact (he (by decide)).symm
  · rintro rfl
    rfl

/-- Settles O6: a listed opcode is in no row, a must-be-zero bit is the row's answer, the word of NOP is
its encoding, and DIVFW's arm looks at no other field. -/
theorem unassignedWordsRaiseIllegalCommand : Obligations.UnassignedWordsRaiseIllegalCommand := by
  refine ⟨fun w hn => ?_, fun w r hr hw hs => ?_, decode_eq_nop_iff, fun w hw => ?_⟩
  · exact raisesIllegal_of_decode_error
      (decode_unassigned fun hmem => not_listedUnassigned_of_mem hmem hn)
  · exact raisesIllegal_of_decode_error (decode_mustBeZero hr hw hs)
  · simp only [decode, hw]

/-- Settles O15: an input is a reset or a command, and a command is discarded, rejected or run. -/
theorem invariantStatesAlwaysStep : Obligations.InvariantStatesAlwaysStep := by
  intro s hs
  cases hp : s.port with
  | nil => exact ⟨_, step_of_no_input hp⟩
  | cons input rest =>
    cases input with
    | reset => exact ⟨_, step_of_reset hp⟩
    | command c =>
      cases hf : s.status.faulted with
      | true => exact ⟨_, step_of_faulted hp hf⟩
      | false =>
        cases hd : decode c.word with
        | error e => exact ⟨_, step_of_decode_error hp hf hd⟩
        | ok i =>
          obtain ⟨u, hu⟩ := exec_answers_next i hs.tlen
          exact ⟨u.consume, by rw [step_of_decode_ok hp hf hd, hu, andConsume_next]⟩

/-- Settles O23: the two runs differ in the inputs to come alone, which only a reader of DATA_IN looks
at; of these TWR looks at bits 7:0. -/
theorem unreadDataInIsIgnored : Obligations.UnreadDataInIsIgnored := by
  intro i s t w d d' rest hp ht hi
  have hw : (s.withPort (.command { word := w, dataIn := d' } :: rest)).cmdWord = s.cmdWord :=
    (cmdWord_of_port hp).symm
  suffices h : exec i (s.withPort (.command { word := w, dataIn := d' } :: rest)) =
      withPortAfter (.command { word := w, dataIn := d' } :: rest) (exec i s) by
    rw [ht] at h
    exact h
  obtain hi | ⟨htwr, hd⟩ := hi
  · exact exec_withPort hw hi
  · cases i with
    | twr addr => exact execTwr_withPort addr (by rw [dataIn_of_port hp]; exact hd.symm)
    | _ => simp [Instr.mnemonic] at htwr

/-- Settles O5: ten closed words. -/
theorem writtenOutWordsDecode : Obligations.WrittenOutWordsDecode := by
  unfold Obligations.WrittenOutWordsDecode
  decide

/-- Settles O8: a word that decodes is run by `exec`, and `andConsume` is the match of the statement. -/
theorem stepRunsTheDecodedCommand : Obligations.StepRunsTheDecodedCommand := by
  intro s c rest i hp hf hd
  refine ⟨dataIn_of_port hp, cmdWord_of_port hp, ?_⟩
  rw [step_of_decode_ok hp hf hd]
  cases exec i s <;> rfl

end Sys2Proof.Machine
end

section
/-! PROOFS. The adder and subtractor family (41_addsub.md). Each of the ten commands gets one equation
that gives its outcome by the arithmetic of R62, R64 and R65 instead of the half-word data paths. The
equations have three shapes, a write alone, a check before the write, a write with FLAGS.O; what each
shape completes with is said once, and the obligations put the two together. -/

namespace Sys2Proof.Machine

/-! ## The word of a command and the shapes of completion -/

/-- A well-formed command stands for the word it encodes to (O1). -/
theorem encodedAs_of_encode {opc : BitVec 8} {rd rd2 rs1 rs2 : Reg} {imm : Byte} {i : Instr}
    (he : encode i = pack opc rd rd2 rs1 rs2 imm) (hwf : i.wf = true) :
    EncodedAs opc rd rd2 rs1 rs2 imm i := by
  rw [EncodedAs, ← he]
  exact decodeOfEncodeIsTheCommand i hwf

section
variable {i : Instr} {s : State} {rd : Reg} {v : Word}

/-- A command that checks first and whose check does not hold writes `x[rd]`. -/
theorem completesSetting_of_check {p : Prop} [Decidable p] {c : Cause}
    (h : exec i s = if p then raiseFault c s else .next (s.setReg rd v)) (hp : ¬p) :
    CompletesSetting i s rd v :=
  completesSetting_of_setReg (h.trans (if_neg hp))

/-- A command that checks first and whose check holds takes fault entry. -/
theorem takesFault_of_check {p : Prop} [Decidable p] {c : Cause} {r : Result}
    (h : exec i s = if p then raiseFault c s else r) (hp : p) : TakesFault i s c :=
  h.trans (if_pos hp)

/-- A command that checks a signed result writes `x[rd]` where the result is in range and takes fault
entry where it is not. -/
theorem completes_or_takesFault_of_signedCheck {n : Int} {c : Cause}
    (h : exec i s = if outside128 n then raiseFault c s else .next (s.setReg rd v)) :
    (InSigned n → CompletesSetting i s rd v) ∧ (¬InSigned n → TakesFault i s c) := by
  refine ⟨fun hin => completesSetting_of_check h ?_, fun hout => takesFault_of_check h ?_⟩
  · exact (outside128_iff n).not_left.mpr hin
  · exact (outside128_iff n).mpr hout

/-- A reporting command whose O means `p` completes with every `o` that means `p`. -/
theorem completesReporting_of_iff {p : Prop} {o o' : Bool}
    (h : exec i s = .next ((s.setReg rd v).setFlags (s.flags.withO o'))) (ho' : o' = true ↔ p)
    (ho : o = true ↔ p) : CompletesReporting i s rd v o := by
  have heq : o = o' := Bool.eq_iff_iff.mpr (ho.trans ho'.symm)
  subst heq
  exact completesReporting_of_setReg h

end

/-! ## The outcome of each command -/

section
variable (rd rs1 rs2 : Reg) (s : State)

theorem exec_addw :
    exec (.addw rd rs1 rs2) s = .next (s.setReg rd (s.reg rs1 + s.reg rs2)) := by
  rw [exec, execAddw, uadd128_eq]

theorem exec_addu :
    exec (.addu rd rs1 rs2) s =
      if 2 ^ 128 ≤ (s.reg rs1).toNat + (s.reg rs2).toNat then raiseFault .overflow s
      else .next (s.setReg rd (s.reg rs1 + s.reg rs2)) := by
  simp only [exec, execAddu, uadd128_eq, decide_eq_true_eq]

theorem exec_adds :
    exec (.adds rd rs1 rs2) s =
      if outside128 ((s.reg rs1).toInt + (s.reg rs2).toInt) then raiseFault .overflow s
      else .next (s.setReg rd (s.reg rs1 + s.reg rs2)) := by
  rw [exec, execAdds, uadd128_eq, saddOvf128_eq]

theorem exec_adduo :
    exec (.adduo rd rs1 rs2) s =
      .next ((s.setReg rd (s.reg rs1 + s.reg rs2)).setFlags
        (s.flags.withO (decide (2 ^ 128 ≤ (s.reg rs1).toNat + (s.reg rs2).toNat)))) := by
  rw [exec, execAdduo, uadd128_eq]

theorem exec_addso :
    exec (.addso rd rs1 rs2) s =
      .next ((s.setReg rd (s.reg rs1 + s.reg rs2)).setFlags
        (s.flags.withO (outside128 ((s.reg rs1).toInt + (s.reg rs2).toInt)))) := by
  rw [exec, execAddso, uadd128_eq, saddOvf128_eq]

theorem exec_subw :
    exec (.subw rd rs1 rs2) s = .next (s.setReg rd (s.reg rs1 - s.reg rs2)) := by
  rw [exec, execSubw, usub128_eq]

theorem exec_subu :
    exec (.subu rd rs1 rs2) s =
      if (s.reg rs1).toNat < (s.reg rs2).toNat then raiseFault .overflow s
      else .next (s.setReg rd (s.reg rs1 - s.reg rs2)) := by
  simp only [exec, execSubu, usub128_eq, decide_eq_true_eq]

theorem exec_subs :
    exec (.subs rd rs1 rs2) s =
      if outside128 ((s.reg rs1).toInt - (s.reg rs2).toInt) then raiseFault .overflow s
      else .next (s.setReg rd (s.reg rs1 - s.reg rs2)) := by
  rw [exec, execSubs, usub128_eq, ssubOvf128_eq]

theorem exec_subuo :
    exec (.subuo rd rs1 rs2) s =
      .next ((s.setReg rd (s.reg rs1 - s.reg rs2)).setFlags
        (s.flags.withO (decide ((s.reg rs1).toNat < (s.reg rs2).toNat)))) := by
  rw [exec, execSubuo, usub128_eq]

theorem exec_subso :
    exec (.subso rd rs1 rs2) s =
      .next ((s.setReg rd (s.reg rs1 - s.reg rs2)).setFlags
        (s.flags.withO (outside128 ((s.reg rs1).toInt - (s.reg rs2).toInt)))) := by
  rw [exec, execSubso, usub128_eq, ssubOvf128_eq]

end

/-! ## The obligations -/

/-- Settles O26: each command is a register write alone. -/
theorem wrappingAddAndSubtractComplete : Obligations.WrappingAddAndSubtractComplete := by
  refine fun rd rs1 rs2 s => ⟨encodedAs_of_encode rfl rfl, encodedAs_of_encode rfl rfl, ?_, ?_⟩
  · exact completesSetting_of_setReg (exec_addw rd rs1 rs2 s)
  · exact completesSetting_of_setReg (exec_subw rd rs1 rs2 s)

/-- Settles O27: the checks are the carry-out and the signed range of the sum. -/
theorem checkedAddsCompleteOrOverflow : Obligations.CheckedAddsCompleteOrOverflow := by
  refine fun rd rs1 rs2 s => ⟨encodedAs_of_encode rfl rfl, encodedAs_of_encode rfl rfl,
    fun hfits => ?_, fun hover => ?_, ?_⟩
  · exact completesSetting_of_check (exec_addu rd rs1 rs2 s) (Nat.not_le.mpr hfits)
  · exact takesFault_of_check (exec_addu rd rs1 rs2 s) hover
  · exact completes_or_takesFault_of_signedCheck (exec_adds rd rs1 rs2 s)

/-- Settles O28: the checks are the borrow-out and the signed range of the difference. -/
theorem checkedSubtractsCompleteOrOverflow : Obligations.CheckedSubtractsCompleteOrOverflow := by
  refine fun rd rs1 rs2 s => ⟨encodedAs_of_encode rfl rfl, encodedAs_of_encode rfl rfl,
    fun hfits => ?_, fun hover => ?_, ?_⟩
  · exact completesSetting_of_check (exec_subu rd rs1 rs2 s) (Nat.not_lt.mpr hfits)
  · exact takesFault_of_check (exec_subu rd rs1 rs2 s) hover
  · exact completes_or_takesFault_of_signedCheck (exec_subs rd rs1 rs2 s)

/-- Settles O29: O is the carry-out, respectively the sum's signed range test. -/
theorem reportingAddsCompleteWithO : Obligations.ReportingAddsCompleteWithO := by
  refine fun rd rs1 rs2 s =>
    ⟨encodedAs_of_encode rfl rfl, encodedAs_of_encode rfl rfl, fun o ho => ?_, fun o ho => ?_⟩
  · exact completesReporting_of_iff (exec_adduo rd rs1 rs2 s) decide_eq_true_iff ho
  · exact completesReporting_of_iff (exec_addso rd rs1 rs2 s) (outside128_iff _) ho

/-- Settles O30: O is the borrow-out, respectively the difference's signed range test. -/
theorem reportingSubtractsCompleteWithO : Obligations.ReportingSubtractsCompleteWithO := by
  refine fun rd rs1 rs2 s =>
    ⟨encodedAs_of_encode rfl rfl, encodedAs_of_encode rfl rfl, fun o ho => ?_, fun o ho => ?_⟩
  · exact completesReporting_of_iff (exec_subuo rd rs1 rs2 s) decide_eq_true_iff ho
  · exact completesReporting_of_iff (exec_subso rd rs1 rs2 s) (outside128_iff _) ho

end Sys2Proof.Machine
end

section
/-! PROOFS. The sign bridge family (42_sign_bridge.md). NEG's pseudocode negates the signed reading; that
is the two's-complement negation, and it is exact for every value but SMIN, the one value NEG faults on.
MAG is a register write of `mag`, whose law (R77) holds for every value. -/

namespace Sys2Proof.Machine

/-! ## The negation of a value -/

/-- R79's `bits_128(0 - s(x))` is the two's-complement negation. -/
theorem bits128i_zero_sub_toInt (x : Word) : bits128i (0 - x.toInt) = -x := by
  rw [bits128i, Int.zero_sub, BitVec.ofInt_neg, BitVec.ofInt_toInt]

theorem smin_eq_intMin : smin = BitVec.intMin 128 := by decide

/-- The negation is exact for every value but SMIN. -/
theorem toInt_neg_of_ne_smin {x : Word} (h : x ≠ smin) : (-x).toInt = -x.toInt :=
  BitVec.toInt_neg_of_ne_intMin (smin_eq_intMin ▸ h)

/-! ## The outcome of each command -/

theorem exec_neg (rd rs1 : Reg) (s : State) :
    exec (.neg rd rs1) s =
      if s.reg rs1 = smin then raiseFault .overflow s
      else .next (s.setReg rd (-s.reg rs1)) := by
  simp only [exec, execNeg, bits128i_zero_sub_toInt]

theorem exec_mag (rd rs1 : Reg) (s : State) :
    exec (.mag rd rs1) s = .next (s.setReg rd (mag (s.reg rs1))) := rfl

/-! ## The obligations -/

/-- Settles O31: the value is the two's-complement negation, and the check is for SMIN alone. -/
theorem negateCompletesOrOverflows : Obligations.NegateCompletesOrOverflows := by
  refine fun rd rs1 s => ⟨encodedAs_of_encode rfl rfl, fun hne => ?_, fun hmin => ?_⟩
  · exact ⟨-s.reg rs1, toInt_neg_of_ne_smin hne, completesSetting_of_check (exec_neg rd rs1 s) hne⟩
  · exact takesFault_of_check (exec_neg rd rs1 s) hmin

/-- Settles O32: the value is `mag`, which reads as the absolute value (R77). -/
theorem magnitudeCompletes : Obligations.MagnitudeCompletes := by
  refine fun rd rs1 s => ⟨encodedAs_of_encode rfl rfl, mag (s.reg rs1), toNat_mag (s.reg rs1), ?_⟩
  exact completesSetting_of_setReg (exec_mag rd rs1 s)

end Sys2Proof.Machine
end

section
/-! PROOFS. The multiplier family (43_multiply.md). The two data paths are exact (R82, R84): the additions
of the cross products lose no carry, and the conditional complement is the negation of the pair. Exactness
fixes both halves of either product, and these give each command's outcome. -/

namespace Sys2Proof.Machine

/-! ## What the shared parts compute -/

theorem toNat_mul_lt {w : Nat} (p q : BitVec w) : p.toNat * q.toNat < 2 ^ w * 2 ^ w :=
  Nat.mul_lt_mul'' p.isLt q.isLt

theorem toNat_halves_zero (h : Half) : (halves h 0#64).toNat = h.toNat * 2 ^ 64 := by
  simp [toNat_halves]

theorem toNat_zext128 (h : Half) : (zext128 h).toNat = h.toNat := by
  simp [zext128, toNat_halves]

/-- The native multiply is exact (00_scope.md R15). -/
theorem toNat_of_mul64x64_eq {p q h l : Half} (heq : mul64x64 p q = (h, l)) :
    p.toNat * q.toNat = h.toNat * 2 ^ 64 + l.toNat := by
  obtain ⟨rfl, rfl⟩ := Prod.mk.inj heq
  rw [← toNat_eq_halves]
  exact (Nat.mod_eq_of_lt (toNat_mul_lt p q)).symm

/-- The adder's sum and carry-out together are exact (R62). -/
theorem toNat_of_uadd128_eq {a b sum : Word} {c : Bool} (heq : uadd128 a b = (sum, c)) :
    a.toNat + b.toNat = c.toNat * 2 ^ 128 + sum.toNat := by
  have ha := a.isLt
  have hb := b.isLt
  obtain ⟨rfl, rfl⟩ := Prod.mk.inj ((uadd128_eq a b).symm.trans heq)
  rw [BitVec.toNat_add]
  by_cases hc : 2 ^ 128 ≤ a.toNat + b.toNat
  · simp only [hc, decide_true, Bool.toNat_true]
    omega
  · simp only [hc, decide_false, Bool.toNat_false]
    omega

/-! ## The unsigned multiplier (R81, R82) -/

/-- The product as the sum of the four cross products, each at its place. -/
theorem toNat_mul_toNat (a b : Word) :
    a.toNat * b.toNat = (hi a).toNat * (hi b).toNat * 2 ^ 128 +
      ((lo a).toNat * (hi b).toNat + (hi a).toNat * (lo b).toNat) * 2 ^ 64 +
      (lo a).toNat * (lo b).toNat := by
  rw [toNat_eq_halves a, toNat_eq_halves b]
  ring

/-- The two additions into the low half, their carries counted, are exact. -/
theorem lowSum_exact {low low1 low2 : Word} {l01 l10 : Half} {c1 c2 : Bool}
    (hs1 : uadd128 low (halves l01 0#64) = (low1, c1))
    (hs2 : uadd128 low1 (halves l10 0#64) = (low2, c2)) :
    low.toNat + (l01.toNat + l10.toNat) * 2 ^ 64 = (c1.toNat + c2.toNat) * 2 ^ 128 + low2.toNat := by
  have hlow1 := toNat_of_uadd128_eq hs1
  have hlow2 := toNat_of_uadd128_eq hs2
  rw [toNat_halves_zero] at hlow1 hlow2
  linarith only [hlow1, hlow2]

/-- The three additions into the high half, their carries dropped, are exact where the sum fits. -/
theorem highSum_exact {high : Word} {h01 h10 : Half} {c1 c2 : Bool}
    (hfits : high.toNat + h01.toNat + h10.toNat + (c1.toNat + c2.toNat) < 2 ^ 128) :
    (uadd128 (uadd128 (uadd128 high (zext128 h01)).1 (zext128 h10)).1
        (bits128 (c1.toNat + c2.toNat))).1.toNat =
      high.toNat + h01.toNat + h10.toNat + (c1.toNat + c2.toNat) := by
  have hcarries : (bits128 (c1.toNat + c2.toNat)).toNat = c1.toNat + c2.toNat := by
    cases c1 <;> cases c2 <;> rfl
  simp only [uadd128_eq, BitVec.toNat_add, Nat.mod_add_mod, toNat_zext128, hcarries]
  exact Nat.mod_eq_of_lt hfits

/-- Settles O33: both fast paths and the sum of the cross products are the product, whose bound 2²⁵⁶ keeps
the high half's sum from carrying out. -/
theorem unsignedMultiplierIsExact : Obligations.UnsignedMultiplierIsExact := by
  intro a b
  have hab := toNat_mul_toNat a b
  rcases e00 : mul64x64 (lo a) (lo b) with ⟨h00, l00⟩
  rw [toNat_of_mul64x64_eq e00] at hab
  unfold umulfull
  split
  next hzero => rcases hzero with hz | hz <;> simp [hz]
  split
  next hhi =>
    obtain ⟨hha, hhb⟩ := hhi
    simpa [hha, hhb, toNat_halves, e00] using hab.symm
  next =>
    rcases e01 : mul64x64 (lo a) (hi b) with ⟨h01, l01⟩
    rcases e10 : mul64x64 (hi a) (lo b) with ⟨h10, l10⟩
    rcases e11 : mul64x64 (hi a) (hi b) with ⟨h11, l11⟩
    rcases hs1 : uadd128 (halves h00 l00) (halves l01 0#64) with ⟨low1, c1⟩
    rcases hs2 : uadd128 low1 (halves l10 0#64) with ⟨low2, c2⟩
    rw [toNat_of_mul64x64_eq e01, toNat_of_mul64x64_eq e10, toNat_of_mul64x64_eq e11] at hab
    have hlow := lowSum_exact hs1 hs2
    have hfits : (halves h11 l11).toNat + h01.toNat + h10.toNat + (c1.toNat + c2.toNat) < 2 ^ 128 := by
      have hlt := toNat_mul_lt a b
      rw [toNat_halves] at hlow ⊢
      omega
    simp only [e00, hs1, hs2, highSum_exact hfits]
    rw [toNat_halves] at hlow ⊢
    linarith only [hab, hlow]

/-- Both halves of the unsigned product: its high part, and the product modulo 2¹²⁸ (R85). -/
theorem umulfull_eq (a b : Word) :
    umulfull a b = (BitVec.ofNat 128 (a.toNat * b.toNat / 2 ^ 128), a * b) := by
  have hexact := unsignedMultiplierIsExact a b
  have hhigh := (umulfull a b).1.isLt
  have hlow := (umulfull a b).2.isLt
  refine Prod.ext (BitVec.eq_of_toNat_eq ?_) (BitVec.eq_of_toNat_eq ?_)
  · rw [BitVec.toNat_ofNat, ← hexact]
    omega
  · rw [BitVec.toNat_mul, ← hexact]
    omega

/-- R85: unsigned overflow is exact. -/
theorem uovfMul_eq (a b : Word) : uovfMul a b = decide (2 ^ 128 ≤ a.toNat * b.toNat) := by
  have hexact := unsignedMultiplierIsExact a b
  have hlow := (umulfull a b).2.isLt
  rw [uovfMul, decide_eq_decide, zero_eq, ← hexact, ne_eq, ← BitVec.toNat_inj, BitVec.toNat_ofNat]
  omega

/-! ## The signed multiplier (R83, R84) -/

/-- "Invert all bits and add 1": the negation, with a carry-out only for 0. -/
theorem uadd128_not_one (x : Word) :
    uadd128 (~~~x) (halves 0#64 1#64) = (-x, decide (x = 0#128)) := by
  have hx := x.isLt
  have hone : halves 0#64 1#64 = 1#128 := rfl
  have hzero : x = 0#128 ↔ x.toNat = 0 := BitVec.toNat_inj.symm
  rw [uadd128_eq, hone, ← BitVec.neg_eq_not_add, BitVec.toNat_not, BitVec.toNat_ofNat, Prod.mk.injEq,
    decide_eq_decide, hzero]
  exact ⟨rfl, by omega⟩

/-- The negated pair (R83): the carry into the high half is the negation of a low half 0. -/
theorem smulfull_of_signs_differ {a b : Word} (h : (signBit a).xor (signBit b) = true) :
    smulfull a b = (if (umulfull (mag a) (mag b)).2 = 0#128 then -(umulfull (mag a) (mag b)).1
      else ~~~(umulfull (mag a) (mag b)).1, -(umulfull (mag a) (mag b)).2) := by
  simp only [smulfull, h, uadd128_not_one, decide_eq_true_eq, if_true]
  split <;> rfl

theorem smulfull_of_signs_agree {a b : Word} (h : (signBit a).xor (signBit b) = false) :
    smulfull a b = umulfull (mag a) (mag b) := by
  simp [smulfull, h]

/-- A pair whose high half is below 2¹²⁷ is negated exactly, the high half read signed. -/
theorem negatedPair_exact {h l : Word} (hh : h.toNat < 2 ^ 127) :
    (if l = 0#128 then -h else ~~~h).toInt * 2 ^ 128 + (-l).toNat =
      -((h.toNat : Int) * 2 ^ 128 + l.toNat) := by
  have hl := l.isLt
  split
  next hz =>
    have hneg : (-h).toInt = -h.toNat := by
      rw [toInt_eq, BitVec.toNat_neg]
      split <;> omega
    rw [hneg, hz]
    simp
  next hz =>
    have hnot : (~~~h).toInt = -h.toNat - 1 := by
      rw [toInt_eq, BitVec.toNat_not]
      split <;> omega
    have hpos := BitVec.toNat_pos_of_ne_zero hz
    rw [hnot, BitVec.toNat_neg]
    omega

/-- The magnitudes' product is the magnitude of the signed product (R77). -/
theorem toNat_mag_mul_toNat_mag (a b : Word) :
    (mag a).toNat * (mag b).toNat = (a.toInt * b.toInt).natAbs := by
  rw [toNat_mag, toNat_mag, Int.natAbs_mul]

theorem natAbs_toInt_le (x : Word) : x.toInt.natAbs ≤ 2 ^ 127 := by
  have := x.isLt
  have := toInt_eq x
  split at this <;> omega

/-- The magnitudes' product is at most 2²⁵⁴, so its high half reads the same signed and unsigned. -/
theorem toNat_umulfull_mag_high_lt (a b : Word) : (umulfull (mag a) (mag b)).1.toNat < 2 ^ 127 := by
  have hexact := unsignedMultiplierIsExact (mag a) (mag b)
  have hle := Nat.mul_le_mul (natAbs_toInt_le a) (natAbs_toInt_le b)
  rw [toNat_mag, toNat_mag] at hexact
  omega

/-- R83's `neg` is the sign of the product, 0 counting as either sign. -/
theorem toInt_mul_nonpos_of_signs_differ {a b : Word} (h : (signBit a).xor (signBit b) = true) :
    a.toInt * b.toInt ≤ 0 := by
  rw [signBit_eq, signBit_eq] at h
  rw [mul_nonpos_iff]
  grind

theorem toInt_mul_nonneg_of_signs_agree {a b : Word} (h : (signBit a).xor (signBit b) = false) :
    0 ≤ a.toInt * b.toInt := by
  rw [signBit_eq, signBit_eq] at h
  rw [mul_nonneg_iff]
  grind

/-- Settles O34: the unsigned product of the magnitudes, negated as a pair where the signs differ. -/
theorem signedMultiplierIsExact : Obligations.SignedMultiplierIsExact := by
  intro a b
  have hhigh := toNat_umulfull_mag_high_lt a b
  have hexact := unsignedMultiplierIsExact (mag a) (mag b)
  rw [toNat_mag_mul_toNat_mag] at hexact
  cases hs : (signBit a).xor (signBit b)
  case true =>
    have hsign := toInt_mul_nonpos_of_signs_differ hs
    rw [smulfull_of_signs_differ hs, negatedPair_exact hhigh]
    omega
  case false =>
    have hsign := toInt_mul_nonneg_of_signs_agree hs
    rw [smulfull_of_signs_agree hs, toInt_eq, if_pos hhigh]
    omega

/-- Both halves of the signed product: its high part, and the same product modulo 2¹²⁸ as the unsigned
multiplier's (R85). -/
theorem smulfull_eq (a b : Word) :
    smulfull a b = (BitVec.ofInt 128 (a.toInt * b.toInt / 2 ^ 128), a * b) := by
  have hexact := signedMultiplierIsExact a b
  have hlow := (smulfull a b).2.isLt
  refine Prod.ext ?_ ?_
  · have hdiv : a.toInt * b.toInt / 2 ^ 128 = (smulfull a b).1.toInt := by omega
    rw [hdiv, BitVec.ofInt_toInt]
  · have hplace : BitVec.ofInt 128 (2 ^ 128) = 0#128 := by decide
    calc (smulfull a b).2
        = BitVec.ofInt 128 ((smulfull a b).1.toInt * 2 ^ 128 + (smulfull a b).2.toNat) := by
          rw [BitVec.ofInt_add, BitVec.ofInt_mul, hplace, BitVec.ofInt_natCast]
          simp
      _ = a * b := by
          rw [hexact, BitVec.ofInt_mul, BitVec.ofInt_toInt, BitVec.ofInt_toInt]

/-- R85: the high half is the sign-extension of the low half exactly for a product in the signed range. -/
theorem sovfMul_eq (a b : Word) : sovfMul a b = outside128 (a.toInt * b.toInt) := by
  have hexact := signedMultiplierIsExact a b
  have hlow := (smulfull a b).2.isLt
  have hsign : (smulfull a b).2.getLsbD 127 = decide (2 ^ 127 ≤ (smulfull a b).2.toNat) := by
    have := toInt_eq (smulfull a b).2
    rw [← signBit, signBit_eq, decide_eq_decide]
    split at this <;> omega
  rw [Bool.eq_iff_iff, outside128, ← hexact]
  simp only [sovfMul, hsign, decide_eq_true_eq, Bool.or_eq_true, ne_eq, ← BitVec.toInt_inj]
  have hminus : minus1.toInt = -1 := by decide
  have hzero : zero.toInt = 0 := by decide
  split
  · rw [hminus]; omega
  · rw [hzero]; omega

/-! ## The outcome of each command -/

section
variable (rd rd2 rs1 rs2 : Reg) (s : State)

theorem exec_mulw :
    exec (.mulw rd rs1 rs2) s = .next (s.setReg rd (s.reg rs1 * s.reg rs2)) := by
  rw [exec, execMulw, umulfull_eq]

theorem exec_mulu :
    exec (.mulu rd rs1 rs2) s =
      if 2 ^ 128 ≤ (s.reg rs1).toNat * (s.reg rs2).toNat then raiseFault .overflow s
      else .next (s.setReg rd (s.reg rs1 * s.reg rs2)) := by
  simp only [exec, execMulu, uovfMul_eq, umulfull_eq, decide_eq_true_eq]

theorem exec_muls :
    exec (.muls rd rs1 rs2) s =
      if outside128 ((s.reg rs1).toInt * (s.reg rs2).toInt) then raiseFault .overflow s
      else .next (s.setReg rd (s.reg rs1 * s.reg rs2)) := by
  rw [exec, execMuls, sovfMul_eq, smulfull_eq]

theorem exec_muluo :
    exec (.muluo rd rs1 rs2) s =
      .next ((s.setReg rd (s.reg rs1 * s.reg rs2)).setFlags
        (s.flags.withO (decide (2 ^ 128 ≤ (s.reg rs1).toNat * (s.reg rs2).toNat)))) := by
  rw [exec, execMuluo, uovfMul_eq, umulfull_eq]

theorem exec_mulso :
    exec (.mulso rd rs1 rs2) s =
      .next ((s.setReg rd (s.reg rs1 * s.reg rs2)).setFlags
        (s.flags.withO (outside128 ((s.reg rs1).toInt * (s.reg rs2).toInt)))) := by
  rw [exec, execMulso, sovfMul_eq, smulfull_eq]

theorem exec_muluf :
    exec (.muluf rd rd2 rs1 rs2) s =
      .next ((s.setReg rd (s.reg rs1 * s.reg rs2)).setReg rd2
        (BitVec.ofNat 128 ((s.reg rs1).toNat * (s.reg rs2).toNat / 2 ^ 128))) := by
  rw [exec, execMuluf, umulfull_eq]

theorem exec_mulsf :
    exec (.mulsf rd rd2 rs1 rs2) s =
      .next ((s.setReg rd (s.reg rs1 * s.reg rs2)).setReg rd2
        (BitVec.ofInt 128 ((s.reg rs1).toInt * (s.reg rs2).toInt / 2 ^ 128))) := by
  rw [exec, execMulsf, smulfull_eq]

end

/-! ## The obligations on commands -/

/-- Settles O35: the check, and O, are the product's range test. -/
theorem unsignedTruncatingMultipliesComplete :
    Obligations.UnsignedTruncatingMultipliesComplete := by
  refine fun rd rs1 rs2 s => ⟨encodedAs_of_encode rfl rfl, encodedAs_of_encode rfl rfl,
    encodedAs_of_encode rfl rfl, ?_, fun hfits => ?_, fun hover => ?_, fun o ho => ?_⟩
  · exact completesSetting_of_setReg (exec_mulw rd rs1 rs2 s)
  · exact completesSetting_of_check (exec_mulu rd rs1 rs2 s) (Nat.not_le.mpr hfits)
  · exact takesFault_of_check (exec_mulu rd rs1 rs2 s) hover
  · exact completesReporting_of_iff (exec_muluo rd rs1 rs2 s) decide_eq_true_iff ho

/-- Settles O36: the check, and O, are the signed range test of the exact product. -/
theorem signedTruncatingMultipliesComplete : Obligations.SignedTruncatingMultipliesComplete := by
  intro rd rs1 rs2 s
  obtain ⟨hfits, hover⟩ := completes_or_takesFault_of_signedCheck (exec_muls rd rs1 rs2 s)
  refine ⟨encodedAs_of_encode rfl rfl, encodedAs_of_encode rfl rfl, hfits, hover, fun o ho => ?_⟩
  exact completesReporting_of_iff (exec_mulso rd rs1 rs2 s) (outside128_iff _) ho

/-- Settles O37: two register writes, the halves of the exact product. -/
theorem fullWidthMultipliesComplete : Obligations.FullWidthMultipliesComplete := by
  intro rd rd2 rs1 rs2 s hd
  have hdests : destsOk rd rd2 = true := by simpa [destsOk] using hd
  refine ⟨encodedAs_of_encode rfl hdests, encodedAs_of_encode rfl hdests, ?_, ?_⟩
  · exact completesSetting2_of_setReg hd (exec_muluf rd rd2 rs1 rs2 s)
  · exact completesSetting2_of_setReg hd (exec_mulsf rd rd2 rs1 rs2 s)

end Sys2Proof.Machine
end

section
/-! PROOFS. The divider family (44_divide.md). The inner loop subtracts `r / d` times, which its three
steps suffice for once `b` is aligned just below `r`; each outer step then leaves less than half of `r`,
so 128 of them suffice. With the fast paths the unsigned divider is `a / b` and `a % b`, and between
magnitudes and signs the signed divider is `sdiv` and `srem`. These give each command's outcome. -/

namespace Sys2Proof.Machine

/-! ## Quotient and remainder of values -/

section
variable {a b : Word}

theorem udiv_of_lt (h : a.toNat < b.toNat) : a / b = 0#128 := by
  rw [BitVec.udiv_def, Nat.div_eq_of_lt h]

theorem umod_of_lt (h : a.toNat < b.toNat) : a % b = a :=
  BitVec.umod_eq_of_lt (BitVec.lt_def.mpr h)

theorem sub_udiv_add_one (hb : 0 < b.toNat) (hle : b.toNat ≤ a.toNat) :
    (a - b) / b + 1#128 = a / b := by
  rw [BitVec.udiv_def, BitVec.toNat_sub_of_le (BitVec.le_def.mpr hle), BitVec.udiv_def,
    Nat.div_eq_sub_div hb hle, BitVec.ofNat_add]

theorem sub_umod (hle : b.toNat ≤ a.toNat) : (a - b) % b = a % b := by
  rw [BitVec.umod_def, BitVec.toNat_sub_of_le (BitVec.le_def.mpr hle), BitVec.umod_def,
    Nat.mod_eq_sub_mod hle]

end

/-! ## The inner loop of R93 -/

theorem bits128_toNat_add_toNat (x y : Word) : bits128 (x.toNat + y.toNat) = x + y := rfl

theorem bits128i_toNat_sub_toNat (x y : Word) : bits128i ((x.toNat : Int) - y.toNat) = x - y := by
  rw [bits128i, Int.sub_eq_add_neg, BitVec.ofInt_add, BitVec.ofInt_neg, BitVec.ofInt_natCast,
    BitVec.ofInt_natCast, BitVec.ofNat_toNat, BitVec.ofNat_toNat, BitVec.setWidth_eq,
    BitVec.setWidth_eq, BitVec.sub_eq_add_neg]

/-- With fuel for every subtraction, the inner loop divides `r` by `d`. -/
theorem divSubtract_eq {fuel : Nat} {d m q r : Word} (hr : r.toNat < (fuel + 1) * d.toNat) :
    divSubtract fuel d m q r = (q + r / d * m, r % d) := by
  induction fuel generalizing q r with
  | zero =>
    have hlt : r.toNat < d.toNat := by omega
    simp [divSubtract, udiv_of_lt hlt, umod_of_lt hlt]
  | succ fuel ih =>
    rw [divSubtract]
    split
    next hle =>
      have hd : 0 < d.toNat := Nat.pos_of_ne_zero fun h => by simp [h] at hr
      have hrest : (r - d).toNat < (fuel + 1) * d.toNat := by
        rw [BitVec.toNat_sub_of_le (BitVec.le_def.mpr hle)]
        rw [Nat.succ_mul] at hr
        omega
      rw [bits128_toNat_add_toNat, bits128i_toNat_sub_toNat, ih hrest, sub_umod hle,
        ← sub_udiv_add_one hd hle, BitVec.add_mul, BitVec.one_mul, BitVec.add_assoc,
        BitVec.add_comm m]
    next hgt =>
      have hlt : r.toNat < d.toNat := Nat.not_le.mp hgt
      simp [udiv_of_lt hlt, umod_of_lt hlt]

/-! ## The alignment of R93 -/

/-- `b` shifted to one bit below the highest bit of `r` is at most `r` and more than a quarter of it. -/
theorem mul_two_pow_log2_sub_bounds {b r : Nat} (hb : b ≠ 0) (hle : b ≤ r) :
    b * 2 ^ (r.log2 - b.log2 - 1) ≤ r ∧ r < 4 * (b * 2 ^ (r.log2 - b.log2 - 1)) := by
  have hr : r ≠ 0 := by omega
  have hlow : 2 ^ b.log2 ≤ b := Nat.log2_self_le hb
  have hhigh : b ≤ 2 ^ (b.log2 + 1) := Nat.lt_log2_self.le
  constructor
  · by_cases hk : r.log2 - b.log2 - 1 = 0
    · simpa [hk] using hle
    · calc b * 2 ^ (r.log2 - b.log2 - 1)
        _ ≤ 2 ^ (b.log2 + 1) * 2 ^ (r.log2 - b.log2 - 1) := Nat.mul_le_mul_right _ hhigh
        _ = 2 ^ r.log2 := by rw [← pow_add]; congr 1; omega
        _ ≤ r := Nat.log2_self_le hr
  · calc r
      _ < 2 ^ (r.log2 + 1) := Nat.lt_log2_self
      _ ≤ 2 ^ (2 + b.log2 + (r.log2 - b.log2 - 1)) := Nat.pow_le_pow_right (by decide) (by omega)
      _ = 4 * (2 ^ b.log2 * 2 ^ (r.log2 - b.log2 - 1)) := by rw [pow_add, pow_add]; ring
      _ ≤ 4 * (b * 2 ^ (r.log2 - b.log2 - 1)) := by gcongr

theorem lzc_sub_lzc {b r : Word} (hb : b.toNat ≠ 0) (hle : b.toNat ≤ r.toNat) :
    lzc b - lzc r = r.toNat.log2 - b.toNat.log2 := by
  have hr : r.toNat.log2 < 128 := (Nat.log2_lt (by omega)).mpr r.isLt
  unfold lzc
  omega

/-- The aligned divisor loses no bit; it is at most `r`, and three subtractions bring `r` below it. -/
theorem alignment_exact {b r : Word} (hb : b.toNat ≠ 0) (hle : b.toNat ≤ r.toNat) :
    (b <<< (lzc b - lzc r - 1)).toNat = b.toNat * 2 ^ (lzc b - lzc r - 1) ∧
      (b <<< (lzc b - lzc r - 1)).toNat ≤ r.toNat ∧
      r.toNat < (divInnerSteps + 1) * (b <<< (lzc b - lzc r - 1)).toNat := by
  obtain ⟨hbelow, habove⟩ := mul_two_pow_log2_sub_bounds hb hle
  have hshift : (b <<< (lzc b - lzc r - 1)).toNat = b.toNat * 2 ^ (lzc b - lzc r - 1) := by
    rw [lzc_sub_lzc hb hle, BitVec.toNat_shiftLeft, Nat.shiftLeft_eq]
    exact Nat.mod_eq_of_lt (hbelow.trans_lt r.isLt)
  rw [hshift, lzc_sub_lzc hb hle]
  exact ⟨rfl, hbelow, habove⟩

/-! ## The outer loop of R93 -/

theorem two_mul_mod_lt {d r : Nat} (hd : 0 < d) (hle : d ≤ r) : 2 * (r % d) < r := by
  have hlt := Nat.mod_lt r hd
  have hsub := Nat.mod_eq_sub_mod hle
  have hrest := Nat.mod_le (r - d) d
  omega

section
variable {b d r : Word} {k : Nat} (hd : d.toNat = b.toNat * 2 ^ k)
include hd

/-- Reducing by a shifted divisor first does not change the remainder. -/
theorem umod_umod_of_shifted : r % d % b = r % b := by
  apply BitVec.eq_of_toNat_eq
  rw [BitVec.toNat_umod, BitVec.toNat_umod, BitVec.toNat_umod, hd, Nat.mod_mul_right_mod]

/-- The quotient by a shifted divisor, at its place, and the quotient of what is left are the quotient. -/
theorem udiv_mul_add_udiv_of_shifted : r / d * bits128 (2 ^ k) + r % d / b = r / b := by
  rw [BitVec.udiv_def, BitVec.udiv_def, BitVec.udiv_def, BitVec.toNat_umod, bits128,
    ← BitVec.ofNat_mul, ← BitVec.ofNat_add, hd, Nat.mod_mul_right_div_self,
    ← Nat.div_div_eq_div_mul, Nat.div_add_mod']

end

/-- The outer loop divides `r` by `b`: the fuel bounds the bits of `r`, which each step takes one of. -/
theorem divAlign_eq {fuel : Nat} {b q r : Word} (hb : b.toNat ≠ 0) (hr : r.toNat < 2 ^ fuel) :
    divAlign fuel b q r = (q + r / b, r % b) := by
  induction fuel generalizing q r with
  | zero =>
    have hlt : r.toNat < b.toNat := by omega
    simp [divAlign, udiv_of_lt hlt, umod_of_lt hlt]
  | succ fuel ih =>
    rw [divAlign]
    split
    next hle =>
      obtain ⟨hd, hbelow, habove⟩ := alignment_exact hb hle
      generalize lzc b - lzc r - 1 = k at hd hbelow habove ⊢
      have hhalf : (r % b <<< k).toNat < 2 ^ fuel := by
        have hlt := two_mul_mod_lt (Nat.pos_of_ne_zero fun h => by simp [h] at habove) hbelow
        rw [BitVec.toNat_umod]
        omega
      simp only [divSubtract_eq habove, ih hhalf, umod_umod_of_shifted hd, BitVec.add_assoc,
        udiv_mul_add_udiv_of_shifted hd]
    next hgt =>
      have hlt : r.toNat < b.toNat := Nat.not_le.mp hgt
      simp [udiv_of_lt hlt, umod_of_lt hlt]

/-! ## The fast path for a power of two (R93) -/

/-- The only set bit of a value is its lowest one. -/
theorem eq_twoPow_of_popcount_eq_one {b : Word} (h : popcount b = 1) :
    tzc b < 128 ∧ b = BitVec.twoPow 128 (tzc b) := by
  rw [popcount, List.countP_eq_length_filter, List.length_eq_one_iff] at h
  obtain ⟨k, hk⟩ := h
  have hbits (i : Nat) : i < 128 ∧ b.getLsbD i = true ↔ i = k := by
    rw [← List.mem_range, ← List.mem_filter, hk, List.mem_singleton]
  have htzc : tzc b = k := by
    rw [tzc, ← List.head?_filter, hk]
    rfl
  obtain ⟨hlt, -⟩ := (hbits k).mpr rfl
  rw [htzc]
  refine ⟨hlt, BitVec.eq_of_getLsbD_eq fun i hi => ?_⟩
  have hbit : b.getLsbD i = true ↔ i = k := (and_iff_right hi).symm.trans (hbits i)
  rw [BitVec.getLsbD_twoPow, decide_eq_true hlt, Bool.true_and, Bool.eq_iff_iff, hbit,
    decide_eq_true_iff, eq_comm]

theorem and_twoPow_sub_one (a : Word) {k : Nat} (hk : k < 128) :
    a &&& bits128 ((BitVec.twoPow 128 k).toNat - 1) = a % BitVec.twoPow 128 k := by
  have hlt : 2 ^ k < 2 ^ 128 := Nat.pow_lt_pow_right (by decide) hk
  apply BitVec.eq_of_toNat_eq
  rw [BitVec.toNat_and, bits128, BitVec.toNat_ofNat, BitVec.toNat_umod,
    BitVec.toNat_twoPow_of_lt hk, Nat.mod_eq_of_lt (by omega), Nat.and_two_pow_sub_one_eq_mod]

/-! ## The unsigned divider (R93, R94) -/

theorem udivmod_eq (a : Word) {b : Word} (hb : b.toNat ≠ 0) : udivmod a b = (a / b, a % b) := by
  unfold udivmod
  split
  next ha =>
    obtain rfl : a = 0#128 := BitVec.eq_of_toNat_eq ha
    simp
  split
  next hlt => simp [udiv_of_lt hlt, umod_of_lt hlt]
  split
  next hone =>
    obtain rfl : b = 1#128 := BitVec.eq_of_toNat_eq hone
    simp
  split
  next hpop =>
    obtain ⟨hlt, hpow⟩ := eq_twoPow_of_popcount_eq_one hpop
    generalize tzc b = k at hlt hpow ⊢
    rw [hpow, and_twoPow_sub_one a hlt, BitVec.udiv_twoPow_eq_of_lt hlt]
  next => simp [divAlign_eq hb (fuel := divOuterSteps) a.isLt]

/-- Settles O38: each fast path and the long division are the quotient and the remainder. -/
theorem unsignedDividerIsExact : Obligations.UnsignedDividerIsExact := by
  intro a b hb
  rw [udivmod_eq a hb]
  exact ⟨BitVec.toNat_udiv, BitVec.toNat_umod⟩

/-! ## The signed divider (R95, R96) -/

theorem signBit_eq_msb (x : Word) : signBit x = x.msb := (BitVec.msb_eq_getLsbD_last x).symm

/-- R77's magnitude is a conditional negation, SMIN being its own negation. -/
theorem mag_eq (x : Word) : mag x = if x.msb then -x else x := by
  have hsmin : smin = -smin := by decide
  rw [mag, signBit_eq_msb, bits128i_zero_sub_toInt]
  split
  next =>
    split
    next hx => rw [hx, ← hsmin]
    next => rfl
  next => rfl

theorem applySign_eq (m : Word) (neg : Bool) : applySign m neg = if neg then -m else m := by
  simp [applySign, bits128i, BitVec.ofInt_neg]

theorem toNat_ne_zero {b : Word} (hb : b ≠ zero) : b.toNat ≠ 0 :=
  (BitVec.toNat_pos_of_ne_zero hb).ne'

theorem toInt_ne_zero {b : Word} (hb : b ≠ zero) : b.toInt ≠ 0 := BitVec.toInt_ne.mpr hb

theorem toNat_mag_ne_zero {b : Word} (hb : b ≠ zero) : (mag b).toNat ≠ 0 := by
  rw [toNat_mag, Int.natAbs_ne_zero]
  exact toInt_ne_zero hb

/-- The signed divider in the two's-complement division, SMIN / MINUS1 wrapping in both. -/
theorem sdivmod_eq (a : Word) {b : Word} (hb : b ≠ zero) :
    sdivmod a b = (a.sdiv b, a.srem b) := by
  rw [sdivmod, udivmod_eq _ (toNat_mag_ne_zero hb)]
  simp only [mag_eq, applySign_eq, signBit_eq_msb, BitVec.sdiv_eq, BitVec.srem_eq]
  cases a.msb <;> cases b.msb <;> rfl

/-- SMIN / MINUS1 is the one quotient that wraps. -/
theorem toInt_sdiv_eq_tdiv {a b : Word} (h : ¬(a = smin ∧ b = minus1)) :
    (a.sdiv b).toInt = a.toInt.tdiv b.toInt :=
  BitVec.toInt_sdiv_of_ne_or_ne a b (not_and_or.mp h)

/-- A remainder of the truncating division that is not 0 has the dividend's sign. -/
theorem tmod_eq_zero_or_neg_iff (a b : Int) : a.tmod b = 0 ∨ (a.tmod b < 0 ↔ a < 0) := by
  by_cases hdvd : b ∣ a
  · exact .inl (Int.tmod_eq_zero_of_dvd hdvd)
  · right
    rw [← Int.sign_eq_neg_one_iff_neg, Int.sign_tmod, if_neg hdvd, Int.sign_eq_neg_one_iff_neg]

/-- Settles O39: the laws of the truncating division of integers. -/
theorem signedDividerTruncates : Obligations.SignedDividerTruncates := by
  intro a b hb hfits
  rw [sdivmod_eq a hb, toInt_sdiv_eq_tdiv hfits, BitVec.toInt_srem]
  refine ⟨rfl, ?_, ?_, tmod_eq_zero_or_neg_iff a.toInt b.toInt⟩
  · rw [Int.tmod_def, Int.mul_comm]
  · rw [Int.natAbs_tmod]
    exact Nat.mod_lt _ (Int.natAbs_pos.mpr (toInt_ne_zero hb))

/-! ## Results as integers -/

theorem sdiv_eq_ofInt {a b : Word} (h : ¬(a = smin ∧ b = minus1)) :
    a.sdiv b = BitVec.ofInt 128 (a.toInt.tdiv b.toInt) := by
  rw [← toInt_sdiv_eq_tdiv h, BitVec.ofInt_toInt]

theorem srem_eq_ofInt (a b : Word) : a.srem b = BitVec.ofInt 128 (a.toInt.tmod b.toInt) := by
  rw [← BitVec.toInt_srem, BitVec.ofInt_toInt]

theorem sdivOvf_eq_false {a b : Word} (h : ¬(a = smin ∧ b = minus1)) : sdivOvf a b = false :=
  decide_eq_false h

theorem minus1_ne_zero : minus1 ≠ zero := by decide

theorem smin_sdiv_minus1 : smin.sdiv minus1 = smin := by decide

theorem smin_srem_minus1 : smin.srem minus1 = zero := by decide

theorem sdivOvf_smin_minus1 : sdivOvf smin minus1 = true := by decide

/-! ## The outcome of each command for a divisor not zero -/

section
variable (rd rd2 rs1 rs2 : Reg) {s : State} (hb : s.reg rs2 ≠ zero)
include hb

theorem exec_divu_of_ne_zero :
    exec (.divu rd rd2 rs1 rs2) s =
      .next ((s.setReg rd (s.reg rs1 / s.reg rs2)).setReg rd2 (s.reg rs1 % s.reg rs2)) := by
  rw [exec, execDivu, if_neg hb, udivmod_eq _ (toNat_ne_zero hb)]

theorem exec_divs_of_ne_zero :
    exec (.divs rd rd2 rs1 rs2) s =
      if sdivOvf (s.reg rs1) (s.reg rs2) then raiseFault .overflow s
      else .next ((s.setReg rd ((s.reg rs1).sdiv (s.reg rs2))).setReg rd2
        ((s.reg rs1).srem (s.reg rs2))) := by
  rw [exec, execDivs, if_neg hb, sdivmod_eq _ hb]

theorem exec_divuo_of_ne_zero :
    exec (.divuo rd rd2 rs1 rs2) s =
      .next (((s.setReg rd (s.reg rs1 / s.reg rs2)).setReg rd2
        (s.reg rs1 % s.reg rs2)).setFlags (s.flags.withO false)) := by
  rw [exec, execDivuo, if_neg hb, udivmod_eq _ (toNat_ne_zero hb)]

theorem exec_divso_of_ne_zero :
    exec (.divso rd rd2 rs1 rs2) s =
      .next (((s.setReg rd ((s.reg rs1).sdiv (s.reg rs2))).setReg rd2
        ((s.reg rs1).srem (s.reg rs2))).setFlags
          (s.flags.withO (sdivOvf (s.reg rs1) (s.reg rs2)))) := by
  rw [exec, execDivso, if_neg hb, sdivmod_eq _ hb]

end

/-! ## The obligations on commands -/

/-- Settles O40: the checks are for a zero divisor and for SMIN / MINUS1 alone. -/
theorem checkedDividesCompleteOrFault : Obligations.CheckedDividesCompleteOrFault := by
  intro rd rd2 rs1 rs2 s hd
  have hdests : destsOk rd rd2 = true := by simpa [destsOk] using hd
  refine ⟨encodedAs_of_encode rfl hdests, encodedAs_of_encode rfl hdests, fun hz => ?_,
    fun hb => ?_, fun hover => ?_, fun hb hfits => ?_⟩
  · exact ⟨takesFault_of_check rfl hz, takesFault_of_check rfl hz⟩
  · rw [← BitVec.udiv_def, ← BitVec.umod_def]
    exact completesSetting2_of_setReg hd (exec_divu_of_ne_zero rd rd2 rs1 rs2 hb)
  · obtain ⟨ha, hb⟩ := hover
    have hexec := exec_divs_of_ne_zero rd rd2 rs1 rs2 (hb ▸ minus1_ne_zero)
    exact takesFault_of_check hexec (by rw [ha, hb, sdivOvf_smin_minus1])
  · have hexec := exec_divs_of_ne_zero rd rd2 rs1 rs2 hb
    rw [sdivOvf_eq_false hfits, sdiv_eq_ofInt hfits, srem_eq_ofInt] at hexec
    exact completesSetting2_of_setReg hd hexec

/-- Settles O41: O is 1 for a zero divisor and for SMIN / MINUS1 alone, where the quotient wraps. -/
theorem reportingDividesCompleteWithO : Obligations.ReportingDividesCompleteWithO := by
  intro rd rd2 rs1 rs2 s hd
  have hdests : destsOk rd rd2 = true := by simpa [destsOk] using hd
  refine ⟨encodedAs_of_encode rfl hdests, encodedAs_of_encode rfl hdests, fun hz => ?_,
    fun hb => ?_, fun hover => ?_, fun hb hfits => ?_⟩
  · exact ⟨completesReporting2_of_setReg hd (if_pos hz),
      completesReporting2_of_setReg hd (if_pos hz)⟩
  · rw [← BitVec.udiv_def, ← BitVec.umod_def]
    exact completesReporting2_of_setReg hd (exec_divuo_of_ne_zero rd rd2 rs1 rs2 hb)
  · obtain ⟨ha, hb⟩ := hover
    have hexec := exec_divso_of_ne_zero rd rd2 rs1 rs2 (hb ▸ minus1_ne_zero)
    rw [ha, hb, smin_sdiv_minus1, smin_srem_minus1, sdivOvf_smin_minus1] at hexec
    exact completesReporting2_of_setReg hd hexec
  · have hexec := exec_divso_of_ne_zero rd rd2 rs1 rs2 hb
    rw [sdivOvf_eq_false hfits, sdiv_eq_ofInt hfits, srem_eq_ofInt] at hexec
    exact completesReporting2_of_setReg hd hexec

/-- Settles O42: class X ignores bits 23:0, and the command's one effect is fault entry. -/
theorem fullWidthDivideRaisesUnsupported : Obligations.FullWidthDivideRaisesUnsupported := by
  obtain ⟨-, -, -, hdivfw⟩ := unassignedWordsRaiseIllegalCommand
  exact ⟨fun rd rd2 rs1 rs2 imm => hdivfw _ (opcField_pack ..), fun _ => rfl⟩

end Sys2Proof.Machine
end

section
/-! PROOFS. The logic, shift and compare family (45_logic_shift_compare.md). A bitwise operation distributes
over the halves, a shift data path is a multiplication or a floor division by a power of two (R108), and the
amount rule (R107) saturates or masks. Each command is then one register write, or one write of FLAGS. -/

namespace Sys2Proof.Machine

/-! ## Bitwise operations half by half (R103 to R106) -/

theorem halves_and (h l h' l' : Half) : halves (h &&& h') (l &&& l') = halves h l &&& halves h' l' :=
  BitVec.and_append.symm

theorem halves_or (h l h' l' : Half) : halves (h ||| h') (l ||| l') = halves h l ||| halves h' l' :=
  BitVec.or_append.symm

theorem halves_xor (h l h' l' : Half) : halves (h ^^^ h') (l ^^^ l') = halves h l ^^^ halves h' l' :=
  BitVec.xor_append.symm

theorem halves_not (h l : Half) : halves (~~~h) (~~~l) = ~~~(halves h l) :=
  BitVec.not_append.symm

/-! ## The shift data paths as arithmetic (R108) -/

theorem shl128_eq_ofNat (x : Word) (k : Nat) : shl128 x k = BitVec.ofNat 128 (x.toNat * 2 ^ k) := by
  apply BitVec.eq_of_toNat_eq
  rw [shl128_eq, BitVec.toNat_shiftLeft, Nat.shiftLeft_eq, BitVec.toNat_ofNat]

theorem shr128_eq_ofNat (x : Word) (k : Nat) : shr128 x k = BitVec.ofNat 128 (x.toNat / 2 ^ k) := by
  rw [shr128_eq, ← Nat.shiftRight_eq_div_pow, ← BitVec.toNat_ushiftRight, BitVec.ofNat_toNat,
    BitVec.setWidth_eq]

theorem sar128_eq_ofInt (x : Word) (k : Nat) : sar128 x k = BitVec.ofInt 128 (x.toInt / 2 ^ k) := by
  rw [sar128_eq, BitVec.sshiftRight, Int.shiftRight_eq_div_pow]
  norm_cast

/-! ## The amount of a shift (R107) -/

theorem saturating_of_ge (shift : Word → Nat → Word) (a : Word) {amount : Word}
    (h : 128 ≤ amount.toNat) : saturating shift a amount = zero := if_pos h

theorem saturating_of_lt (shift : Word → Nat → Word) (a : Word) {amount : Word}
    (h : amount.toNat < 128) : saturating shift a amount = shift a amount.toNat :=
  if_neg (Nat.not_le.mpr h)

/-- Bits 6:0 of the amount are the amount modulo 128. -/
theorem masked_eq (shift : Word → Nat → Word) (a amount : Word) :
    masked shift a amount = shift a (amount.toNat % 128) := by
  rw [masked, BitVec.extractLsb'_toNat, Nat.shiftRight_zero]

/-! ## The shapes of completion -/

section
variable {i : Instr} {s : State} {rd : Reg} {shift : Word → Nat → Word} {a amount : Word}

theorem completesSetting_zero_of_saturating
    (h : exec i s = .next (s.setReg rd (saturating shift a amount))) (hn : 128 ≤ amount.toNat) :
    CompletesSetting i s rd zero :=
  completesSetting_of_setReg (saturating_of_ge shift a hn ▸ h)

theorem completesSetting_of_saturating
    (h : exec i s = .next (s.setReg rd (saturating shift a amount))) (hn : amount.toNat < 128) :
    CompletesSetting i s rd (shift a amount.toNat) :=
  completesSetting_of_setReg (saturating_of_lt shift a hn ▸ h)

theorem completesSetting_of_masked (h : exec i s = .next (s.setReg rd (masked shift a amount))) :
    CompletesSetting i s rd (shift a (amount.toNat % 128)) :=
  completesSetting_of_setReg (masked_eq shift a amount ▸ h)

end

theorem keepsRegs_setFlags (s : State) (f : Flags) : KeepsRegs s (s.setFlags f) := fun _ => rfl

theorem keepsRest_setFlags (s : State) (f : Flags) : KeepsRest s (s.setFlags f) := by
  simp [KeepsRest, KeepsTxt, KeepsOwn]

/-! ## The outcome of each command -/

section
variable (rd rs1 rs2 : Reg) (s : State)

theorem exec_and :
    exec (.and rd rs1 rs2) s = .next (s.setReg rd (s.reg rs1 &&& s.reg rs2)) := by
  simp only [exec, execAnd, halves_and, halves_hi_lo]

theorem exec_or :
    exec (.or rd rs1 rs2) s = .next (s.setReg rd (s.reg rs1 ||| s.reg rs2)) := by
  simp only [exec, execOr, halves_or, halves_hi_lo]

theorem exec_xor :
    exec (.xor rd rs1 rs2) s = .next (s.setReg rd (s.reg rs1 ^^^ s.reg rs2)) := by
  simp only [exec, execXor, halves_xor, halves_hi_lo]

theorem exec_not : exec (.not rd rs1) s = .next (s.setReg rd (~~~(s.reg rs1))) := by
  simp only [exec, execNot, halves_not, halves_hi_lo]

theorem exec_cmpu :
    exec (.cmpu rs1 rs2) s =
      .next (s.setFlags (s.flags.withCompare (decide ((s.reg rs1).toNat < (s.reg rs2).toNat))
        (decide (s.reg rs1 = s.reg rs2)))) := by
  simp only [exec, execCmpu, ult_eq, equal_eq]

theorem exec_cmps :
    exec (.cmps rs1 rs2) s =
      .next (s.setFlags (s.flags.withCompare (decide ((s.reg rs1).toInt < (s.reg rs2).toInt))
        (decide (s.reg rs1 = s.reg rs2)))) := by
  simp only [exec, execCmps, slt_eq, equal_eq]

end

/-! ## The obligations -/

/-- Settles O43: each command is one register write of the whole value's bitwise result. -/
theorem bitwiseCommandsComplete : Obligations.BitwiseCommandsComplete := by
  refine fun rd rs1 rs2 s => ⟨encodedAs_of_encode rfl rfl, encodedAs_of_encode rfl rfl,
    encodedAs_of_encode rfl rfl, encodedAs_of_encode rfl rfl, ?_, ?_, ?_, ?_⟩
  · exact completesSetting_of_setReg (exec_and rd rs1 rs2 s)
  · exact completesSetting_of_setReg (exec_or rd rs1 rs2 s)
  · exact completesSetting_of_setReg (exec_xor rd rs1 rs2 s)
  · exact completesSetting_of_setReg (exec_not rd rs1 s)

/-- Settles O44: an amount from 128 on takes the ZERO branch, a smaller one the data path. -/
theorem saturatingShiftsComplete : Obligations.SaturatingShiftsComplete := by
  rintro rd rs1 rs2 s n rfl
  refine ⟨encodedAs_of_encode rfl rfl, encodedAs_of_encode rfl rfl, encodedAs_of_encode rfl rfl,
    fun hover => ?_, fun hn => ?_⟩
  · exact ⟨completesSetting_zero_of_saturating rfl hover,
      completesSetting_zero_of_saturating rfl hover, completesSetting_zero_of_saturating rfl hover⟩
  · rw [← shl128_eq_ofNat, ← shr128_eq_ofNat, ← sar128_eq_ofInt]
    exact ⟨completesSetting_of_saturating rfl hn, completesSetting_of_saturating rfl hn,
      completesSetting_of_saturating rfl hn⟩

/-- Settles O45: the amount's bits 6:0 go to the data path whatever the other bits are. -/
theorem maskedShiftsComplete : Obligations.MaskedShiftsComplete := by
  rintro rd rs1 rs2 s k rfl
  rw [← shl128_eq_ofNat, ← shr128_eq_ofNat, ← sar128_eq_ofInt]
  exact ⟨encodedAs_of_encode rfl rfl, encodedAs_of_encode rfl rfl, encodedAs_of_encode rfl rfl,
    completesSetting_of_masked rfl, completesSetting_of_masked rfl, completesSetting_of_masked rfl⟩

/-- Settles O46: the half-word comparators give the order of the whole readings (R115), and a write of
FLAGS leaves everything else. -/
theorem comparesComplete : Obligations.ComparesComplete := by
  refine fun rs1 rs2 s => ⟨encodedAs_of_encode rfl rfl, encodedAs_of_encode rfl rfl, ?_, ?_⟩
  · exact ⟨_, exec_cmpu rs1 rs2 s, keepsRegs_setFlags s _, keepsRest_setFlags s _, rfl⟩
  · exact ⟨_, exec_cmps rs1 rs2 s, keepsRegs_setFlags s _, keepsRest_setFlags s _, rfl⟩

end Sys2Proof.Machine
end

section
/-! PROOFS. The text codec family (46_text_codec.md). The numeral of a number is named once by Mathlib's
`Nat.digits`: the formatter's loop writes it, the parser's loop reads a number back from it, and a text's
digits without leading zeros, in lowercase, are it. A signed or unsigned reading then adds the sign. -/

namespace Sys2Proof.Machine

/-! ## Digits (R118, R119) -/

/-- `digitVal` as a number, 0 for a character outside the alphabet; `spelled` sums these. -/
def digitValue (c : Byte) : Nat := (digitVal c).getD 0

theorem digitVal_digitChar {d : Nat} (hd : d < 36) : digitVal (digitChar d) = some d := by
  have hall : ∀ d < 36, digitVal (digitChar d) = some d := by decide
  exact hall d hd

theorem lowerCase_digitChar {d : Nat} (hd : d < 36) : lowerCase (digitChar d) = digitChar d := by
  have hall : ∀ d < 36, lowerCase (digitChar d) = digitChar d := by decide
  exact hall d hd

/-- A digit is its value's character in lowercase. -/
theorem digitChar_of_digitVal {c : Byte} {d : Nat} (h : digitVal c = some d) :
    digitChar d = lowerCase c := by
  have hall : ∀ c : Byte, ∀ d ∈ digitVal c, digitChar d = lowerCase c := by decide
  exact hall c d h

theorem digitVal_eq_some_zero {c : Byte} : digitVal c = some 0 ↔ c = 0x30#8 := by
  revert c
  decide

section
variable {radix : Nat} {c : Byte}

theorem IsDigit.digitVal (h : IsDigit radix c) : digitVal c = some (digitValue c) := by
  obtain ⟨d, hd, -⟩ := h
  rw [digitValue, hd, Option.getD_some]

theorem IsDigit.digitValue_lt (h : IsDigit radix c) : digitValue c < radix := by
  obtain ⟨d, hd, hlt⟩ := h
  rwa [digitValue, hd, Option.getD_some]

theorem IsDigit.digitChar_digitValue (h : IsDigit radix c) : digitChar (digitValue c) = lowerCase c :=
  digitChar_of_digitVal h.digitVal

theorem IsDigit.digitValue_ne_zero (h : IsDigit radix c) (hc : c ≠ 0x30#8) : digitValue c ≠ 0 :=
  fun h0 => hc (digitVal_eq_some_zero.mp (h0 ▸ h.digitVal))

/-- The sign characters are no digits. -/
theorem IsDigit.ne_sign (h : IsDigit radix c) : c ≠ plusChar ∧ c ≠ minusChar := by
  constructor
  · rintro rfl
    cases h.digitVal
  · rintro rfl
    cases h.digitVal

theorem isDigit_digitChar {d : Nat} (hmax : radix ≤ 36) (hd : d < radix) :
    IsDigit radix (digitChar d) :=
  ⟨d, digitVal_digitChar (hd.trans_le hmax), hd⟩

end

/-! ## Spelled numbers and Mathlib's digits -/

/-- The digits spelling a number, most significant first, none for 0. -/
def digitsOf (radix n : Nat) : List Byte := (Nat.digits radix n).reverse.map digitChar

/-- The numeral of a number: its digits, "0" for 0. -/
def numeral (radix n : Nat) : List Byte := if n = 0 then [0x30#8] else digitsOf radix n

theorem digitsOf_eq_nil {radix n : Nat} : digitsOf radix n = [] ↔ n = 0 := by
  rw [digitsOf, List.map_eq_nil_iff, List.reverse_eq_nil_iff, Nat.digits_eq_nil_iff_eq_zero]

theorem numeral_ne_nil (radix n : Nat) : numeral radix n ≠ [] := by
  unfold numeral
  split
  · exact List.cons_ne_nil _ _
  · rwa [ne_eq, digitsOf_eq_nil]

theorem spelled_eq_ofDigits (radix : Nat) (ds : List Byte) :
    spelled radix ds = Nat.ofDigits radix (ds.map digitValue).reverse := by
  rw [Nat.ofDigits_eq_foldr, List.foldr_reverse, List.foldl_map, spelled]
  simp only [digitValue, Nat.cast_id, mul_comm, add_comm]

/-- Leading zeros do not count. -/
theorem spelled_dropWhile_zero (radix : Nat) (ds : List Byte) :
    spelled radix (ds.dropWhile (· == 0x30#8)) = spelled radix ds := by
  induction ds with
  | nil => rfl
  | cons c rest ih =>
    by_cases hc : c = 0x30#8
    · have hzero : spelled radix (0x30#8 :: rest) = spelled radix rest := by
        simp [spelled, digitVal_eq_some_zero.mpr rfl]
      rw [hc, hzero, ← ih, List.dropWhile_cons_of_pos (by rfl)]
    · rw [List.dropWhile_cons_of_neg (by simpa using hc)]

section
variable {radix : Nat}

theorem map_digitChar_digitValue {ds : List Byte} (hds : ∀ c ∈ ds, IsDigit radix c) :
    (ds.map digitValue).map digitChar = ds.map lowerCase := by
  rw [List.map_map]
  exact List.map_congr_left fun c hc => (hds c hc).digitChar_digitValue

variable (hmin : 2 ≤ radix)
include hmin

/-- Digits without a leading zero are the digits of the number they spell, up to case. -/
theorem digitsOf_spelled_of_head_ne_zero {ds : List Byte} (hds : ∀ c ∈ ds, IsDigit radix c)
    (hhead : ∀ c ∈ ds.head?, c ≠ 0x30#8) : digitsOf radix (spelled radix ds) = ds.map lowerCase := by
  have hlt : ∀ d ∈ (ds.map digitValue).reverse, d < radix := by
    simpa using fun c hc => (hds c hc).digitValue_lt
  have hlast (hne : (ds.map digitValue).reverse ≠ []) :
      (ds.map digitValue).reverse.getLast hne ≠ 0 := by
    cases ds with
    | nil => exact absurd rfl hne
    | cons c rest =>
      simpa using (hds c List.mem_cons_self).digitValue_ne_zero (hhead c rfl)
  rw [digitsOf, spelled_eq_ofDigits, Nat.digits_ofDigits radix hmin _ hlt hlast, List.reverse_reverse,
    map_digitChar_digitValue hds]

/-- Any text of digits, without its leading zeros and in lowercase, is the digits of the number it
spells. -/
theorem digitsOf_spelled {ds : List Byte} (hds : ∀ c ∈ ds, IsDigit radix c) :
    digitsOf radix (spelled radix ds) = (ds.dropWhile (· == 0x30#8)).map lowerCase := by
  rw [← spelled_dropWhile_zero]
  refine digitsOf_spelled_of_head_ne_zero hmin
    (fun c hc => hds c ((List.dropWhile_suffix _).subset hc)) fun c hc => ?_
  have := List.head?_dropWhile_not (· == 0x30#8) ds
  rw [Option.mem_def.mp hc] at this
  simpa using this

variable (hmax : radix ≤ 36)
include hmax

theorem isDigit_of_mem_digitsOf {n : Nat} {c : Byte} (hc : c ∈ digitsOf radix n) :
    IsDigit radix c ∧ lowerCase c = c := by
  obtain ⟨d, hd, rfl⟩ := List.mem_map.mp hc
  have hlt : d < radix := Nat.digits_lt_base hmin (List.mem_reverse.mp hd)
  exact ⟨isDigit_digitChar hmax hlt, lowerCase_digitChar (hlt.trans_le hmax)⟩

theorem isDigit_of_mem_numeral {n : Nat} {c : Byte} (hc : c ∈ numeral radix n) :
    IsDigit radix c ∧ lowerCase c = c := by
  unfold numeral at hc
  split at hc
  · obtain rfl := List.mem_singleton.mp hc
    exact ⟨⟨0, rfl, by omega⟩, rfl⟩
  · exact isDigit_of_mem_digitsOf hmin hmax hc

theorem spelled_digitsOf (n : Nat) : spelled radix (digitsOf radix n) = n := by
  have hvalues : (digitsOf radix n).map digitValue = (Nat.digits radix n).reverse := by
    rw [digitsOf, List.map_map, List.map_congr_left (g := id), List.map_id]
    intro d hd
    have hlt : d < radix := Nat.digits_lt_base hmin (List.mem_reverse.mp hd)
    rw [Function.comp_apply, digitValue, digitVal_digitChar (hlt.trans_le hmax), Option.getD_some, id]
  rw [spelled_eq_ofDigits, hvalues, List.reverse_reverse, Nat.ofDigits_digits]

theorem spelled_numeral (n : Nat) : spelled radix (numeral radix n) = n := by
  unfold numeral
  split
  next h0 => simp [h0, spelled, digitVal_eq_some_zero.mpr rfl]
  next => exact spelled_digitsOf hmin hmax n

/-- The number's own digits lose no leading zero, so they begin with none. -/
theorem head?_digitsOf_ne_zero (n : Nat) : (digitsOf radix n).head? ≠ some 0x30#8 := by
  intro hhead
  obtain ⟨rest, hrest⟩ := List.head?_eq_some_iff.mp hhead
  have hdrop := digitsOf_spelled hmin fun c hc => (isDigit_of_mem_digitsOf hmin hmax (n := n) hc).1
  rw [spelled_digitsOf hmin hmax, hrest, List.dropWhile_cons_of_pos (by rfl)] at hdrop
  have hlen := congrArg List.length hdrop
  have hle := (List.dropWhile_suffix (· == 0x30#8) (l := rest)).length_le
  rw [List.length_map, List.length_cons] at hlen
  exact Nat.not_succ_le_self _ (hlen.le.trans hle)

theorem numeral_eq_zero_of_head (n : Nat) (hhead : (numeral radix n).head? = some 0x30#8) :
    numeral radix n = [0x30#8] := by
  unfold numeral at hhead ⊢
  split at hhead
  next h0 => exact if_pos h0
  next => exact absurd hhead (head?_digitsOf_ne_zero hmin hmax n)

end

/-! ## The value of a sign and a number (R121) -/

/-- `sign` is a sign the parser accepts, and `neg` says whether it negates. -/
def SignOf (signed neg : Bool) (sign : List Byte) : Prop :=
  neg = false ∧ (sign = [] ∨ sign = [plusChar]) ∨ neg = true ∧ signed = true ∧ sign = [minusChar]

/-- `v` is the value of the number `n` with its sign, in the range of its type. -/
def ReadsAs (signed neg : Bool) (n : Nat) (v : Word) : Prop :=
  if signed then
    (if neg then n ≤ 2 ^ 127 else n < 2 ^ 127) ∧ v.toInt = if neg then -(n : Int) else n
  else v.toNat = n

/-- The magnitude of a value in its type: what its numeral spells. -/
def magnitude (signed : Bool) (x : Word) : Nat := if signed then x.toInt.natAbs else x.toNat

theorem readsAs_magnitude (signed : Bool) (x : Word) :
    ReadsAs signed (signed && decide (x.toInt < 0)) (magnitude signed x) x := by
  have hlow := BitVec.le_toInt x
  have hhigh := BitVec.toInt_lt (x := x)
  cases signed with
  | false => rfl
  | true =>
    simp only [ReadsAs, magnitude, Bool.true_and, if_true, decide_eq_true_eq]
    split <;> omega

section
variable {signed neg : Bool} {sign : List Byte} {n : Nat} {v : Word}

theorem ReadsAs.magnitude_eq (h : ReadsAs signed neg n v) : magnitude signed v = n := by
  cases signed with
  | false => exact h
  | true =>
    obtain ⟨-, hv⟩ := h
    rw [magnitude, if_pos rfl, hv]
    cases neg with
    | false => exact Int.natAbs_natCast n
    | true => exact (Int.natAbs_neg _).trans (Int.natAbs_natCast n)

theorem ReadsAs.lt (h : ReadsAs signed neg n v) : n < 2 ^ 128 := by
  cases signed with
  | false => exact (h : v.toNat = n) ▸ v.isLt
  | true =>
    obtain ⟨hrange, -⟩ := h
    split at hrange <;> omega

/-- Without '-', the ranges as R122 writes them. -/
theorem readsAs_false_iff :
    ReadsAs signed false n v ↔
      if signed then n ≤ 2 ^ 127 - 1 ∧ v.toInt = n else n ≤ 2 ^ 128 - 1 ∧ v.toNat = n := by
  cases signed with
  | false => exact ⟨fun h => ⟨Nat.le_pred_of_lt h.lt, h⟩, fun h => h.2⟩
  | true => exact and_congr_left fun _ => Nat.lt_iff_le_pred (by decide)

/-- A value is negative exactly for '-' before a number not 0. -/
theorem ReadsAs.neg_iff (h : ReadsAs signed neg n v) (hsign : SignOf signed neg sign) :
    signed = true ∧ v.toInt < 0 ↔ neg = true ∧ n ≠ 0 := by
  obtain ⟨rfl, -⟩ | ⟨rfl, rfl, -⟩ := hsign
  · have hv (hs : signed = true) : v.toInt = n := by
      subst hs
      exact h.2
    simpa using fun hs => (hv hs).symm ▸ Int.natCast_nonneg n
  · obtain ⟨-, hv⟩ := h
    simp only [hv, if_true, true_and]
    omega

end

/-! ## The parser (R121, R122) -/

/-- The sign the parser strips. -/
theorem signOf_parseSign (signed : Bool) (text : List Byte) :
    ∃ sign, text = sign ++ (parseSign signed text).2 ∧ SignOf signed (parseSign signed text).1 sign := by
  cases text with
  | nil => exact ⟨[], rfl, .inl ⟨rfl, .inl rfl⟩⟩
  | cons c rest =>
    simp only [parseSign]
    split
    next hc => exact ⟨[c], rfl, .inl ⟨rfl, .inr (by rw [hc])⟩⟩
    split
    next hc => exact ⟨[c], rfl, .inr ⟨rfl, hc.2, by rw [hc.1]⟩⟩
    next => exact ⟨[], rfl, .inl ⟨rfl, .inl rfl⟩⟩

/-- A sign before digits is stripped, a digit never is. -/
theorem parseSign_append {signed neg : Bool} {sign ds : List Byte} {radix : Nat}
    (hsign : SignOf signed neg sign) (hds : ∀ c ∈ ds, IsDigit radix c) :
    parseSign signed (sign ++ ds) = (neg, ds) := by
  obtain ⟨rfl, rfl | rfl⟩ | ⟨rfl, rfl, rfl⟩ := hsign
  · cases ds with
    | nil => rfl
    | cons c rest =>
      obtain ⟨hplus, hminus⟩ := (hds c List.mem_cons_self).ne_sign
      simp [parseSign, hplus, hminus]
  · rfl
  · rfl

/-- The number spelled by digits that follow a number already read. -/
def spelledAfter (radix acc : Nat) (digits : List Byte) : Nat :=
  digits.foldl (fun n c => n * radix + (digitVal c).getD 0) acc

theorem spelledAfter_cons (radix acc : Nat) (c : Byte) (rest : List Byte) :
    spelledAfter radix acc (c :: rest) = spelledAfter radix (acc * radix + digitValue c) rest := rfl

theorem le_spelledAfter {radix : Nat} (hmin : 2 ≤ radix) (acc : Nat) (ds : List Byte) :
    acc ≤ spelledAfter radix acc ds := by
  induction ds generalizing acc with
  | nil => exact Nat.le_refl acc
  | cons c rest ih =>
    calc acc ≤ acc * radix + digitValue c :=
          Nat.le_add_right_of_le (Nat.le_mul_of_pos_right acc (by omega))
      _ ≤ spelledAfter radix acc (c :: rest) := ih _

theorem toNat_bits128 {n : Nat} (hn : n < 2 ^ 128) : (bits128 n).toNat = n := by
  rw [bits128, BitVec.toNat_ofNat, Nat.mod_eq_of_lt hn]

/-- One digit of the accumulation: absent exactly where the next number overflows. -/
theorem parseDigits_cons {radix : Nat} (hmax : radix ≤ 36) (acc : Word) {c : Byte} (rest : List Byte)
    (hc : IsDigit radix c) :
    parseDigits radix acc (c :: rest) =
      if acc.toNat * radix + digitValue c < 2 ^ 128 then
        parseDigits radix (bits128 (acc.toNat * radix + digitValue c)) rest
      else none := by
  have hd := hc.digitValue_lt
  have hradix : (bits128 radix).toNat = radix := toNat_bits128 (by omega)
  have hdigit : (bits128 (digitValue c)).toNat = digitValue c := toNat_bits128 (by omega)
  have hsum : acc * bits128 radix + bits128 (digitValue c) =
      bits128 (acc.toNat * radix + digitValue c) := by
    simp [bits128, BitVec.ofNat_add, BitVec.ofNat_mul]
  have hhigh : (umulfull acc (bits128 radix)).1 ≠ zero ↔ 2 ^ 128 ≤ acc.toNat * radix := by
    have hovf := uovfMul_eq acc (bits128 radix)
    rwa [uovfMul, decide_eq_decide, hradix] at hovf
  have hlow : (umulfull acc (bits128 radix)).2 = acc * bits128 radix := by rw [umulfull_eq]
  simp only [parseDigits, hc.digitVal, if_neg (Nat.not_le.mpr hd), hhigh, hlow, uadd128_eq, hsum,
    hdigit, decide_eq_true_eq]
  by_cases hover : 2 ^ 128 ≤ acc.toNat * radix
  · rw [if_pos hover, if_neg (by omega)]
  · rw [if_neg hover, BitVec.toNat_mul, hradix, Nat.mod_eq_of_lt (Nat.not_le.mp hover), ← ite_not]
    simp only [Nat.not_le]

theorem parseDigits_cons_of_not_isDigit {radix : Nat} (acc : Word) {c : Byte} (rest : List Byte)
    (hc : ¬IsDigit radix c) : parseDigits radix acc (c :: rest) = none := by
  unfold parseDigits
  split
  next => rfl
  next d hd => exact if_pos (Nat.le_of_not_lt fun hlt => hc ⟨d, hd, hlt⟩)

section
variable {radix : Nat} (hmin : 2 ≤ radix) (hmax : radix ≤ 36)
include hmin hmax

/-- The accumulation answers exactly for digits that spell a number below 2¹²⁸. -/
theorem parseDigits_eq_some_iff {acc v : Word} {ds : List Byte} :
    parseDigits radix acc ds = some v ↔
      (∀ c ∈ ds, IsDigit radix c) ∧ v.toNat = spelledAfter radix acc.toNat ds := by
  induction ds generalizing acc with
  | nil => simp [parseDigits, spelledAfter, ← BitVec.toNat_inj, eq_comm]
  | cons c rest ih =>
    by_cases hc : IsDigit radix c
    · rw [parseDigits_cons hmax acc rest hc, List.forall_mem_cons, spelledAfter_cons]
      split
      next hlt => rw [ih, toNat_bits128 hlt]; simp [hc]
      next hge =>
        have hle := le_spelledAfter hmin (acc.toNat * radix + digitValue c) rest
        have hv := v.isLt
        simp only [reduceCtorEq, false_iff, not_and]
        omega
    · simp [parseDigits_cons_of_not_isDigit acc rest hc, hc]

theorem parseDigits_zero_eq_some_iff {v : Word} {ds : List Byte} :
    parseDigits radix zero ds = some v ↔
      (∀ c ∈ ds, IsDigit radix c) ∧ v.toNat = spelled radix ds :=
  parseDigits_eq_some_iff hmin hmax

end

/-- The signed range test, as one test of the magnitude. -/
theorem parseRange_signed (neg : Bool) (acc : Word) :
    parseRange true neg acc =
      if (if neg then acc.toNat ≤ 2 ^ 127 else acc.toNat < 2 ^ 127) then some (applySign acc neg)
      else none := by
  have hlt : acc.toNat < 2 ^ 127 ↔ ¬2 ^ 127 - 1 < acc.toNat := by omega
  have hle : acc.toNat ≤ 2 ^ 127 ↔ ¬2 ^ 127 < acc.toNat := Nat.not_lt.symm
  cases neg with
  | false =>
    simp only [parseRange, hlt, if_true, true_and, Bool.false_eq_true, false_and, if_false, ite_not]
  | true =>
    simp only [parseRange, hle, if_true, Bool.true_eq_false, true_and, false_and, if_false, ite_not]

theorem parseRange_eq_some_iff {signed neg : Bool} {acc v : Word} :
    parseRange signed neg acc = some v ↔ ReadsAs signed neg acc.toNat v := by
  cases signed with
  | false => simp [parseRange, ReadsAs, ← BitVec.toNat_inj, eq_comm]
  | true =>
    rw [parseRange_signed, Option.ite_none_right_eq_some, ReadsAs, if_pos rfl]
    refine and_congr_right fun hrange => ?_
    rw [← toInt_applySign acc neg hrange, Option.some_inj, BitVec.toInt_inj, eq_comm]

theorem parseText_eq_some_iff_parseSign {signed neg : Bool} {radix : Nat} {text ds : List Byte}
    {v : Word} (hmin : 2 ≤ radix) (hmax : radix ≤ 36) (hsign : parseSign signed text = (neg, ds)) :
    parseText signed radix text = some v ↔
      ds ≠ [] ∧ (∀ c ∈ ds, IsDigit radix c) ∧ ReadsAs signed neg (spelled radix ds) v := by
  simp only [parseText, hsign, List.isEmpty_iff, Option.ite_none_left_eq_some, Option.bind_eq_some_iff,
    parseDigits_zero_eq_some_iff hmin hmax, parseRange_eq_some_iff]
  refine and_congr_right fun _ => ⟨?_, fun ⟨hds, hreads⟩ => ?_⟩
  · rintro ⟨acc, ⟨hds, hacc⟩, hreads⟩
    exact ⟨hds, (hacc ▸ hreads :)⟩
  · have hacc := toNat_bits128 hreads.lt
    exact ⟨bits128 (spelled radix ds), ⟨hds, hacc⟩, hacc.symm ▸ hreads⟩

/-- What the parser accepts: a sign of its type, then digits, whose value the range of its type holds. -/
theorem parseText_eq_some_iff {signed : Bool} {radix : Nat} {text : List Byte} {v : Word}
    (hmin : 2 ≤ radix) (hmax : radix ≤ 36) :
    parseText signed radix text = some v ↔
      ∃ neg sign ds, text = sign ++ ds ∧ SignOf signed neg sign ∧ ds ≠ [] ∧
        (∀ c ∈ ds, IsDigit radix c) ∧ ReadsAs signed neg (spelled radix ds) v := by
  constructor
  · intro h
    obtain ⟨sign, htext, hsign⟩ := signOf_parseSign signed text
    obtain ⟨hne, hds, hreads⟩ := (parseText_eq_some_iff_parseSign hmin hmax rfl).mp h
    exact ⟨_, sign, _, htext, hsign, hne, hds, hreads⟩
  · rintro ⟨neg, sign, ds, rfl, hsign, hne, hds, hreads⟩
    exact (parseText_eq_some_iff_parseSign hmin hmax (parseSign_append hsign hds)).mpr
      ⟨hne, hds, hreads⟩

/-! ## The formatter (R123) -/

/-- The loop of R123 puts the number's digits before the ones collected, where its fuel suffices. -/
theorem formatDigits_eq {radix : Nat} (hmin : 2 ≤ radix) (hmax : radix ≤ 36) {fuel : Nat} {m : Word}
    (ds : List Byte) (hfuel : m.toNat < radix ^ fuel) :
    formatDigits radix fuel m ds = digitsOf radix m.toNat ++ ds := by
  have hradix : (bits128 radix).toNat = radix := toNat_bits128 (by omega)
  induction fuel generalizing m ds with
  | zero =>
    have hm : m.toNat = 0 := by simpa using hfuel
    simp [formatDigits, digitsOf, hm]
  | succ fuel ih =>
    by_cases hm : m.toNat = 0
    · simp [formatDigits, digitsOf, hm]
    · have hquot : (m / bits128 radix).toNat = m.toNat / radix := by rw [BitVec.toNat_udiv, hradix]
      have hrem : (m % bits128 radix).toNat = m.toNat % radix := by rw [BitVec.toNat_umod, hradix]
      have hfuel' : m.toNat / radix < radix ^ fuel :=
        Nat.div_lt_of_lt_mul (by rwa [← pow_succ'])
      have hne : (bits128 radix).toNat ≠ 0 := by omega
      simp only [formatDigits, if_neg hm, udivmod_eq m hne, ih _ (hquot ▸ hfuel'), hquot, hrem]
      rw [digitsOf, digitsOf, Nat.digits_def' hmin (Nat.pos_of_ne_zero hm), List.reverse_cons,
        List.map_append, List.append_assoc]
      rfl

/-- R124: 128 digits suffice for every value. -/
theorem toNat_lt_pow_maxDigits {radix : Nat} (hmin : 2 ≤ radix) (m : Word) :
    m.toNat < radix ^ maxDigits :=
  m.isLt.trans_le (Nat.pow_le_pow_left hmin 128)

/-- The formatted text is the numeral of the magnitude, after '-' for a negative signed value. -/
theorem formatText_eq {radix : Nat} (hmin : 2 ≤ radix) (hmax : radix ≤ 36) (signed : Bool) (x : Word) :
    formatText signed radix x =
      if signed = true ∧ x.toInt < 0 then minusChar :: numeral radix (magnitude signed x)
      else numeral radix (magnitude signed x) := by
  have hmag : (if signed && signBit x then mag x else x).toNat = magnitude signed x := by
    cases signed with
    | false => rfl
    | true =>
      rw [magnitude, if_pos rfl, ← toNat_mag, Bool.true_and]
      cases hs : signBit x <;> simp [mag, hs]
  simp only [formatText, formatDigits_eq hmin hmax [] (toNat_lt_pow_maxDigits hmin _),
    List.append_nil, hmag]
  simp only [signBit_eq, Bool.and_eq_true, decide_eq_true_eq, numeral]

/-! ## The normal form of a text (R125) -/

theorem normalText_eq {signed neg : Bool} {radix : Nat} {text ds : List Byte} (hmin : 2 ≤ radix)
    (hsign : parseSign signed text = (neg, ds)) (hds : ∀ c ∈ ds, IsDigit radix c) :
    normalText signed text =
      if neg = true ∧ spelled radix ds ≠ 0 then minusChar :: numeral radix (spelled radix ds)
      else numeral radix (spelled radix ds) := by
  simp only [normalText, hsign, ← digitsOf_spelled hmin hds, List.isEmpty_iff, digitsOf_eq_nil,
    numeral]
  by_cases h0 : spelled radix ds = 0
  · simp [h0]
  · simp [h0]

/-! ## The outcome of each command -/

theorem badRadix_iff (radix : Byte) :
    badRadix radix = true ↔ ¬(2 ≤ radix.toNat ∧ radix.toNat ≤ 36) := by
  rw [badRadix, Bool.or_eq_true, decide_eq_true_eq, decide_eq_true_eq, not_and_or, Nat.not_le,
    Nat.not_le]
  rfl

theorem badRadix_eq_false {radix : Byte} (hmin : 2 ≤ radix.toNat) (hmax : radix.toNat ≤ 36) :
    ¬badRadix radix = true := by
  rw [badRadix_iff]
  exact not_not_intro ⟨hmin, hmax⟩

theorem keepsTxt_setTlen (s : State) (n : BitVec 9) : KeepsTxt s (s.setTlen n) := by
  simp [KeepsTxt]

section
variable (signed : Bool) (rd rs1 : Reg) {radix : Byte} {s : State} {v : Word} (hmin : 2 ≤ radix.toNat)
  (hmax : radix.toNat ≤ 36)
include hmin hmax

theorem parseCommand_of_tlen_gt (htlen : Config.txtSize < s.tlen.toNat) :
    parseCommand signed rd radix s = .fault .txtAddress := by
  rw [parseCommand, if_neg (badRadix_eq_false hmin hmax), if_pos htlen]

theorem parseCommand_of_some (htlen : s.tlen.toNat ≤ Config.txtSize)
    (hparse : parseText signed radix.toNat s.text = some v) :
    parseCommand signed rd radix s = .next ((s.setReg rd v).setFlags (s.flags.withA false)) := by
  rw [parseCommand, if_neg (badRadix_eq_false hmin hmax), if_neg (Nat.not_lt.mpr htlen), hparse]

theorem parseCommand_of_none (htlen : s.tlen.toNat ≤ Config.txtSize)
    (hparse : parseText signed radix.toNat s.text = none) :
    parseCommand signed rd radix s = .next (s.setFlags (s.flags.withA true)) := by
  rw [parseCommand, if_neg (badRadix_eq_false hmin hmax), if_neg (Nat.not_lt.mpr htlen), hparse]

theorem formatCommand_eq :
    formatCommand signed rs1 radix s =
      .next ((s.writeTextAt0 (formatText signed radix.toNat (s.reg rs1))).setTlen
        (BitVec.ofNat 9 (formatText signed radix.toNat (s.reg rs1)).length)) :=
  if_neg (badRadix_eq_false hmin hmax)

end

theorem regsSet_setReg_setFlags (s : State) (rd : Reg) (v : Word) (f : Flags) :
    RegsSet s ((s.setReg rd v).setFlags f) rd v :=
  fun r => reg_setReg s rd r v

theorem keepsRest_setReg_setFlags (s : State) (rd : Reg) (v : Word) (f : Flags) :
    KeepsRest s ((s.setReg rd v).setFlags f) := by
  simp [KeepsRest, KeepsTxt, KeepsOwn]

/-- The length of a text of at most 256 characters, as TLEN holds it. -/
theorem toNat_tlen_of_le {n : Nat} (hn : n ≤ 256) : (BitVec.ofNat 9 n).toNat = n := by
  rw [BitVec.toNat_ofNat, Nat.mod_eq_of_lt (by omega)]

/-! ## Format and parse undo each other (R125) -/

theorem parseText_formatText {radix : Nat} (hmin : 2 ≤ radix) (hmax : radix ≤ 36) (signed : Bool)
    (x : Word) : parseText signed radix (formatText signed radix x) = some x := by
  have hreads := readsAs_magnitude signed x
  rw [← spelled_numeral hmin hmax (magnitude signed x)] at hreads
  refine (parseText_eq_some_iff hmin hmax).mpr
    ⟨_, if signed = true ∧ x.toInt < 0 then [minusChar] else [], numeral radix (magnitude signed x),
      ?_, ?_, numeral_ne_nil _ _, fun c hc => (isDigit_of_mem_numeral hmin hmax hc).1, hreads⟩
  · rw [formatText_eq hmin hmax]
    split <;> rfl
  · split
    next hneg => exact .inr ⟨by simpa using hneg, hneg.1, rfl⟩
    next hneg => exact .inl ⟨by simpa using hneg, .inl rfl⟩

theorem parseCommand_after_formatCommand {signed : Bool} {rs1 rd : Reg} {radix : Byte} {s t : State}
    (hmin : 2 ≤ radix.toNat) (hmax : radix.toNat ≤ 36)
    (h : formatCommand signed rs1 radix s = .next t) :
    ∃ u, parseCommand signed rd radix t = .next u ∧ u.flags.a = false ∧
      RegsSet t u rd (s.reg rs1) := by
  rw [formatCommand_eq signed rs1 hmin hmax] at h
  obtain rfl := Host.Outcome.next.inj h
  have hlen : (formatText signed radix.toNat (s.reg rs1)).length ≤ 129 := length_formatText_le ..
  refine ⟨_, parseCommand_of_some signed rd hmin hmax ?_ ?_, rfl, regsSet_setReg_setFlags _ _ _ _⟩
  · rw [setTlen_tlen, toNat_tlen_of_le (by omega)]
    exact hlen.trans (by decide)
  · rw [text_of_writeTextAt0 s _ (by omega)]
    exact parseText_formatText hmin hmax signed (s.reg rs1)

/-! ## The obligations -/

/-- Settles O47: a write at one address of TXT, and a read of one. -/
theorem textByteWriteAndReadComplete : Obligations.TextByteWriteAndReadComplete := by
  refine fun addr s => ⟨encodedAs_of_encode rfl rfl, encodedAs_of_encode rfl rfl, ?_, ?_⟩
  · exact ⟨_, rfl, writeTxt_reg s _ _, rfl, rfl, rfl, rfl, ⟨rfl, rfl, rfl⟩,
      fun a => readTxt_writeTxt s addr.toNat a _⟩
  · rw [BitVec.ofNat_toNat]
    exact completesReading_of_setDataOut rfl

/-- Settles O48: a length up to 256 fits into the 9 bits of TLEN. -/
theorem textLengthCommandsComplete : Obligations.TextLengthCommandsComplete := by
  refine ⟨encodedAs_of_encode rfl rfl, encodedAs_of_encode rfl rfl, fun s =>
    ⟨fun hle => ?_, fun hgt => ?_, ?_⟩⟩
  · exact ⟨_, if_neg (Nat.not_lt.mpr hle), toNat_tlen_of_le hle, setTlen_reg s _, rfl, rfl, rfl,
      keepsTxt_setTlen s _, ⟨rfl, rfl, rfl⟩⟩
  · exact takesFault_of_check rfl hgt
  · rw [BitVec.ofNat_toNat]
    exact completesReading_of_setDataOut rfl

/-- Settles O49, by the parser's sign, digits and range. -/
theorem parserAcceptsExactlyTheNumerals : Obligations.ParserAcceptsExactlyTheNumerals := by
  intro signed radix text v hmin hmax
  rw [parseText_eq_some_iff hmin hmax]
  constructor
  · rintro ⟨neg, sign, ds, htext, ⟨rfl, hsign⟩ | ⟨rfl, rfl, hsign⟩, hne, hds, hreads⟩
    · exact ⟨sign, ds, htext, hne, hds, .inl ⟨hsign, readsAs_false_iff.mp hreads⟩⟩
    · exact ⟨sign, ds, htext, hne, hds, .inr ⟨rfl, hsign, hreads⟩⟩
  · rintro ⟨sign, ds, htext, hne, hds, ⟨hsign, hreads⟩ | ⟨rfl, hsign, hreads⟩⟩
    · exact ⟨false, sign, ds, htext, .inl ⟨rfl, hsign⟩, hne, hds, readsAs_false_iff.mpr hreads⟩
    · exact ⟨true, sign, ds, htext, .inr ⟨rfl, rfl, hsign⟩, hne, hds, hreads⟩

/-- Settles O50, by the checks of the parse commands in their order. -/
theorem parseCommandsComplete : Obligations.ParseCommandsComplete := by
  intro rd radix s signed i hi
  have hexec : exec i s = parseCommand signed rd radix s := by
    obtain ⟨rfl, rfl⟩ | ⟨rfl, rfl⟩ := hi <;> rfl
  refine ⟨?_, fun hbad => ?_, fun hmin hmax htlen => ?_, fun hmin hmax htlen =>
    ⟨fun v hparse => ?_, fun hparse => ?_⟩⟩
  · obtain ⟨rfl, rfl⟩ | ⟨rfl, rfl⟩ := hi <;> exact encodedAs_of_encode rfl rfl
  · exact takesFault_of_check hexec ((badRadix_iff radix).mpr hbad)
  · exact hexec.trans (parseCommand_of_tlen_gt signed rd hmin hmax htlen)
  · exact ⟨_, hexec.trans (parseCommand_of_some signed rd hmin hmax htlen hparse),
      regsSet_setReg_setFlags s rd v _, rfl, keepsRest_setReg_setFlags s rd v _⟩
  · exact ⟨_, hexec.trans (parseCommand_of_none signed rd hmin hmax htlen hparse),
      keepsRegs_setFlags s _, rfl, keepsRest_setFlags s _⟩

/-- Settles O51: the digits are the numeral of the magnitude. -/
theorem formattedTextSpellsTheValue : Obligations.FormattedTextSpellsTheValue := by
  intro signed radix x hmin hmax
  exact ⟨numeral radix (magnitude signed x), formatText_eq hmin hmax signed x, numeral_ne_nil _ _,
    fun c => isDigit_of_mem_numeral hmin hmax, spelled_numeral hmin hmax _,
    numeral_eq_zero_of_head hmin hmax _, length_formatText_le signed radix x⟩

/-- Settles O52: a write of the text at address 0 reads back as the text and leaves the bytes beyond. -/
theorem formatCommandsComplete : Obligations.FormatCommandsComplete := by
  intro rs1 radix s signed i hi
  have hexec : exec i s = formatCommand signed rs1 radix s := by
    obtain ⟨rfl, rfl⟩ | ⟨rfl, rfl⟩ := hi <;> rfl
  refine ⟨?_, fun hbad => ?_, fun hmin hmax out hout => ?_⟩
  · obtain ⟨rfl, rfl⟩ | ⟨rfl, rfl⟩ := hi <;> exact encodedAs_of_encode rfl rfl
  · exact takesFault_of_check hexec ((badRadix_iff radix).mpr hbad)
  · have hlen : out.length ≤ 129 := hout ▸ length_formatText_le ..
    rw [formatCommand_eq signed rs1 hmin hmax, ← hout] at hexec
    refine ⟨_, hexec, fun r => rfl, rfl, rfl, rfl, ⟨rfl, rfl, rfl⟩, toNat_tlen_of_le (by omega),
      fun a => ?_⟩
    rw [setTlen_readTxt, readTxt_writeTextAt0]
    split
    next ha => rw [List.getElem?_eq_getElem ha, Option.getD_some]
    next ha => rw [List.getElem?_eq_none (Nat.le_of_not_lt ha), Option.getD_none]

/-- Settles O53: FMTU and FMTS share their body, and so do PARSEU and PARSES. -/
theorem parseAfterFormatGivesTheValueBack : Obligations.ParseAfterFormatGivesTheValueBack :=
  fun _ _ _ _ _ hmin hmax =>
    ⟨parseCommand_after_formatCommand hmin hmax, parseCommand_after_formatCommand hmin hmax⟩

/-- Settles O54: both texts are the numeral of the magnitude, with '-' for a negative value. -/
theorem formatAfterParseNormalisesTheText : Obligations.FormatAfterParseNormalisesTheText := by
  intro signed radix text v hmin hmax hparse
  obtain ⟨neg, sign, ds, rfl, hsign, -, hds, hreads⟩ := (parseText_eq_some_iff hmin hmax).mp hparse
  rw [formatText_eq hmin hmax, normalText_eq hmin (parseSign_append hsign hds) hds, hreads.magnitude_eq]
  simp only [hreads.neg_iff hsign]

end Sys2Proof.Machine
end

section
/-! PROOFS. The transfer and control family (47_transfer_control.md). Each command gets one equation that
gives its outcome by the arithmetic of the statements: a value built of halves, words and extensions is
read as a number once, and the checks of LDUS and CVT are range tests of the value they look at. -/

namespace Sys2Proof.Machine

/-! ## Values as numbers -/

theorem halves_eq_ofNat (h l : Half) :
    halves h l = BitVec.ofNat 128 (h.toNat * 2 ^ 64 + l.toNat) := by
  rw [← toNat_halves, BitVec.ofNat_toNat, BitVec.setWidth_eq]

theorem hi_eq_ofNat (x : Word) : hi x = BitVec.ofNat 64 (x.toNat / 2 ^ 64) := by
  rw [← toNat_hi, BitVec.ofNat_toNat, BitVec.setWidth_eq]

theorem lo_eq_ofNat (x : Word) : lo x = BitVec.ofNat 64 (x.toNat % 2 ^ 64) := by
  rw [← toNat_lo, BitVec.ofNat_toNat, BitVec.setWidth_eq]

theorem zext128_eq_ofNat (h : Half) : zext128 h = BitVec.ofNat 128 h.toNat := by
  rw [← toNat_zext128, BitVec.ofNat_toNat, BitVec.setWidth_eq]

theorem toNat_toInt_of_nonneg {h : Half} (hn : 0 ≤ h.toInt) : h.toInt.toNat = h.toNat := by
  have hmsb : h.msb = false := by rw [BitVec.msb_eq_toInt, decide_eq_false (Int.not_lt.mpr hn)]
  exact BitVec.toNat_toInt_of_msb h hmsb

/-! ## Word decomposition (R144) -/

theorem wordAt_w64 (x : Word) (k : Nat) :
    wordAt .w64 x k = BitVec.ofNat 64 (x.toNat / 2 ^ (64 * k) % 2 ^ 64) := by
  apply BitVec.eq_of_toNat_eq
  rw [wordAt, BitVec.extractLsb'_toNat, BitVec.toNat_ofNat, Nat.mod_mod, Nat.shiftRight_eq_div_pow]

theorem wordAt_w32 (x : Word) (k : Nat) :
    wordAt .w32 x k = BitVec.ofNat 64 (x.toNat / 2 ^ (32 * k) % 2 ^ 32) := by
  rw [wordAt, BitVec.zeroExtend_eq_setWidth, ← BitVec.ofNat_toNat, BitVec.extractLsb'_toNat,
    Nat.shiftRight_eq_div_pow]

/-! ## Words of opcode 0x00 (R134) -/

/-- A word of opcode 0x00 other than 0 has a must-be-zero bit set: only the word 0 decodes to NOP, and
class Z has no other answer. -/
theorem decode_error_of_opcode_zero {w : CmdWord} (hopc : opcField w = 0x00#8) (hw : w ≠ 0#32) :
    decode w = .error .mustBeZero := by
  have hnop : decode w ≠ .ok .nop := mt (decode_eq_nop_iff w).mp hw
  simp only [decode, hopc, formZ, requireZero] at hnop ⊢
  split at hnop
  · exact absurd rfl hnop
  · next hunused => rw [if_neg hunused]

/-! ## Conversion (R146, R147) -/

/-- The selector of CVT as a number (30_encoding.md R54). -/
theorem toNat_cvtImm (width : CvtWidth) (ts ss : Bool) :
    (cvtImm width ts ss).toNat =
      ((cvtBits width).log2 - 3) + 4 * ts.toNat + 8 * ss.toNat := by
  have hcode : width.code.toNat = (cvtBits width).log2 - 3 := by cases width <;> decide
  simp only [cvtImm, toNat_append_eq, BitVec.toNat_ofNat, BitVec.toNat_ofBool, hcode]
  omega

/-- The range test is the statement's range. -/
theorem cvtFits_iff (w : Nat) (ts : Bool) (v : Int) :
    cvtFits w ts v = true ↔
      if ts then -2 ^ (w - 1) ≤ v ∧ v ≤ 2 ^ (w - 1) - 1 else 0 ≤ v ∧ v ≤ 2 ^ w - 1 := by
  cases ts <;> simp [cvtFits]

/-- A value that fits a signed target keeps its value through the target. -/
theorem cvtValue_signed {w : Nat} {v : Int} (hw : 0 < w) (hmin : -2 ^ (w - 1) ≤ v)
    (hmax : v ≤ 2 ^ (w - 1) - 1) : cvtValue w true v = BitVec.ofInt 64 v :=
  congrArg (BitVec.ofInt 64) (BitVec.toInt_ofInt_eq_self hw hmin (Int.lt_of_le_sub_one hmax))

/-- A value that fits an unsigned target keeps its value through the target. -/
theorem cvtValue_unsigned {w : Nat} {v : Int} (hmin : 0 ≤ v) (hmax : v ≤ 2 ^ w - 1) :
    cvtValue w false v = BitVec.ofInt 64 v := by
  obtain ⟨n, rfl⟩ := Int.eq_ofNat_of_zero_le hmin
  have hn : n < 2 ^ w := by exact_mod_cast Int.lt_of_le_sub_one hmax
  have hval : (BitVec.ofNat w n).toNat = n := by rw [BitVec.toNat_ofNat, Nat.mod_eq_of_lt hn]
  simp only [cvtValue, Bool.false_eq_true, if_false, BitVec.ofInt_natCast,
    BitVec.zeroExtend_eq_setWidth, ← BitVec.ofNat_toNat, hval]

theorem cvtBits_pos (width : CvtWidth) : 0 < cvtBits width := by cases width <;> decide

/-- R147: a value that fits the target is extended to the bus unchanged. -/
theorem cvtValue_of_fits {width : CvtWidth} {ts : Bool} {v : Int}
    (h : cvtFits (cvtBits width) ts v = true) :
    cvtValue (cvtBits width) ts v = BitVec.ofInt 64 v := by
  rw [cvtFits_iff] at h
  cases ts with
  | true =>
    obtain ⟨hmin, hmax⟩ := h
    exact cvtValue_signed (cvtBits_pos width) hmin hmax
  | false =>
    obtain ⟨hmin, hmax⟩ := h
    exact cvtValue_unsigned hmin hmax

/-! ## The shapes of completion -/

section
variable {i : Instr} {s : State} {v : Half}

/-- A command that checks first and whose check does not hold writes DATA_OUT. -/
theorem completesReading_of_check {p : Prop} [Decidable p] {c : Cause}
    (h : exec i s = if p then raiseFault c s else .next (s.setDataOut v)) (hp : ¬p) :
    CompletesReading i s v s.flags :=
  completesReading_of_setDataOut (h.trans (if_neg hp))

/-- A command that writes DATA_OUT and FLAGS. -/
theorem completesReading_of_setDataOut_setFlags {f : Flags}
    (h : exec i s = .next ((s.setDataOut v).setFlags f)) : CompletesReading i s v f :=
  ⟨_, h, rfl, rfl, by simp [KeepsRegs], rfl, rfl, by simp [KeepsTxt], by simp [KeepsOwn]⟩

end

/-! ## The outcome of each command -/

section
variable (rd rs1 : Reg) (s : State)

/-- RDFLAGS reads FLAGS as a number, O its lowest bit (10_state.md R29). -/
theorem exec_rdflags :
    exec .rdflags s = .next (s.setDataOut (BitVec.ofNat 64 (s.flags.o.toNat
      + 2 * s.flags.lt.toNat + 4 * s.flags.eq.toNat + 8 * s.flags.a.toNat))) := by
  rw [Nat.mul_comm 2, Nat.mul_comm 4, Nat.mul_comm 8, ← Flags.toNat_toBits, BitVec.ofNat_toNat]
  rfl

theorem exec_ldlo :
    exec (.ldlo rd) s = .next (s.setReg rd
      (BitVec.ofNat 128 ((s.reg rd).toNat / 2 ^ 64 * 2 ^ 64 + s.dataIn.toNat))) := by
  rw [exec, execLdlo, halves_eq_ofNat, toNat_hi]

theorem exec_ldhi :
    exec (.ldhi rd) s = .next (s.setReg rd
      (BitVec.ofNat 128 (s.dataIn.toNat * 2 ^ 64 + (s.reg rd).toNat % 2 ^ 64))) := by
  rw [exec, execLdhi, halves_eq_ofNat, toNat_lo]

theorem exec_ldu : exec (.ldu rd) s = .next (s.setReg rd (BitVec.ofNat 128 s.dataIn.toNat)) := by
  rw [exec, execLdu, zext128_eq_ofNat]

/-- Core's sign extension is defined by the signed reading. -/
theorem exec_lds : exec (.lds rd) s = .next (s.setReg rd (BitVec.ofInt 128 s.dataIn.toInt)) := rfl

/-- R140: DATA_IN[63] is 1 exactly where DATA_IN is negative. -/
theorem exec_ldus :
    exec (.ldus rd) s = if s.dataIn.toInt < 0 then raiseFault .negativeToUnsigned s
      else .next (s.setReg rd (BitVec.ofNat 128 s.dataIn.toNat)) := by
  have hsign : s.dataIn.getLsbD 63 = decide (s.dataIn.toInt < 0) := by
    rw [← BitVec.msb_eq_toInt, BitVec.msb_eq_getLsbD_last]
  simp only [exec, execLdus, hsign, zext128_eq_ofNat, decide_eq_true_eq]

theorem exec_ldbit :
    exec (.ldbit rd) s = if s.dataIn.toInt < 0 ∨ 127 < s.dataIn.toInt then raiseFault .badBitIndex s
      else .next (s.setReg rd (BitVec.ofNat 128 (2 ^ s.dataIn.toInt.toNat))) := rfl

theorem exec_rdlo :
    exec (.rdlo rs1) s = .next (s.setDataOut (BitVec.ofNat 64 ((s.reg rs1).toNat % 2 ^ 64))) := by
  rw [exec, execRdlo, lo_eq_ofNat]

theorem exec_rdhi :
    exec (.rdhi rs1) s = .next (s.setDataOut (BitVec.ofNat 64 ((s.reg rs1).toNat / 2 ^ 64))) := by
  rw [exec, execRdhi, hi_eq_ofNat]

/-- WORD for a machine whose words have `width` bits, of which a value has `count` (R144). -/
theorem exec_word (k : Byte) {width count : Nat}
    (hwidth : s.nativeWidth = .w64 ∧ width = 64 ∧ count = 2 ∨
      s.nativeWidth = .w32 ∧ width = 32 ∧ count = 4) :
    exec (.word rs1 k) s = if count ≤ k.toNat then raiseFault .indexRange s
      else .next (s.setDataOut
        (BitVec.ofNat 64 ((s.reg rs1).toNat / 2 ^ (width * k.toNat) % 2 ^ width))) := by
  obtain ⟨hn, rfl, rfl⟩ | ⟨hn, rfl, rfl⟩ := hwidth
  · rw [exec, execWord, hn, wordAt_w64, wordCount]
  · rw [exec, execWord, hn, wordAt_w32, wordCount]

variable {width : CvtWidth} {ts ss : Bool} {v : Int}

theorem exec_cvt_of_fits (hv : v = cvtSource ss (s.reg rs1))
    (hfits : cvtFits (cvtBits width) ts v = true) :
    exec (.cvt rs1 width ts ss) s =
      .next ((s.setDataOut (BitVec.ofInt 64 v)).setFlags (s.flags.withA false)) := by
  rw [← cvtValue_of_fits hfits]
  subst hv
  exact if_pos hfits

theorem exec_cvt_of_not_fits (hv : v = cvtSource ss (s.reg rs1))
    (hfits : ¬cvtFits (cvtBits width) ts v = true) :
    exec (.cvt rs1 width ts ss) s = .next ((s.setDataOut 0#64).setFlags (s.flags.withA true)) := by
  subst hv
  exact if_neg hfits

end

/-! ## The obligations -/

/-- Settles O56: each load is one register write. -/
theorem loadsComplete : Obligations.LoadsComplete := by
  refine fun rd s => ⟨encodedAs_of_encode rfl rfl, encodedAs_of_encode rfl rfl,
    encodedAs_of_encode rfl rfl, encodedAs_of_encode rfl rfl, ?_, ?_, ?_, ?_⟩
  · exact completesSetting_of_setReg (exec_ldlo rd s)
  · exact completesSetting_of_setReg (exec_ldhi rd s)
  · exact completesSetting_of_setReg (exec_ldu rd s)
  · exact completesSetting_of_setReg (exec_lds rd s)

/-- Settles O57: LDUS checks the sign of DATA_IN; LDBIT's check leaves the indices whose signed reading
is their unsigned one. -/
theorem checkedLoadsCompleteOrFault : Obligations.CheckedLoadsCompleteOrFault := by
  refine fun rd s => ⟨encodedAs_of_encode rfl rfl, encodedAs_of_encode rfl rfl,
    fun hnonneg => ?_, fun hneg => ?_, fun hnonneg hle => ?_, fun hout => ?_⟩
  · exact completesSetting_of_check (exec_ldus rd s) (Int.not_lt.mpr hnonneg)
  · exact takesFault_of_check (exec_ldus rd s) hneg
  · rw [← toNat_toInt_of_nonneg hnonneg]
    exact completesSetting_of_check (exec_ldbit rd s) (by omega)
  · exact takesFault_of_check (exec_ldbit rd s) hout

/-- Settles O59, for either width by its own word. -/
theorem wordReadCompletesOrFaults : Obligations.WordReadCompletesOrFaults := by
  intro rs1 k s width count hwidth
  have hexec := exec_word rs1 s k hwidth
  refine ⟨encodedAs_of_encode rfl rfl, fun hlt => ?_, fun hle => ?_⟩
  · exact completesReading_of_check hexec (Nat.not_le.mpr hlt)
  · exact takesFault_of_check hexec hle

/-- Settles O60: the selector is the one CVT encodes to, and the range test decides the rest. -/
theorem conversionCompletes : Obligations.ConversionCompletes := by
  intro rs1 width ts ss s w v hw hv
  obtain rfl : w = cvtBits width := by
    obtain ⟨rfl, rfl⟩ | ⟨rfl, rfl⟩ | ⟨rfl, rfl⟩ | ⟨rfl, rfl⟩ := hw <;> rfl
  refine ⟨fun sel hsel => ?_, fun hin => ?_, fun hout => ?_⟩
  · obtain rfl : sel = cvtImm width ts ss :=
      BitVec.eq_of_toNat_eq (hsel.trans (toNat_cvtImm width ts ss).symm)
    exact encodedAs_of_encode rfl rfl
  · exact completesReading_of_setDataOut_setFlags
      (exec_cvt_of_fits rs1 s hv ((cvtFits_iff _ ts v).mpr hin))
  · exact completesReading_of_setDataOut_setFlags
      (exec_cvt_of_not_fits rs1 s hv (mt (cvtFits_iff _ ts v).mp hout))

/-- Settles O55: NOP answers the state it is given, and RDFLAGS reads FLAGS as a number. -/
theorem nopAndReadFlagsComplete : Obligations.NopAndReadFlagsComplete := by
  refine ⟨encodedAs_of_encode rfl rfl, encodedAs_of_encode rfl rfl, fun w hopc hw => ?_,
    fun s => ⟨rfl, ?_⟩⟩
  · exact raisesIllegal_of_decode_error (decode_error_of_opcode_zero hopc hw)
  · exact completesReading_of_setDataOut (exec_rdflags s)

/-- Settles O58: each half of a value is its remainder, respectively its quotient, by 2⁶⁴. -/
theorem halfReadsComplete : Obligations.HalfReadsComplete := by
  refine fun rs1 s => ⟨encodedAs_of_encode rfl rfl, encodedAs_of_encode rfl rfl, ?_, ?_⟩
  · exact completesReading_of_setDataOut (exec_rdlo rs1 s)
  · exact completesReading_of_setDataOut (exec_rdhi rs1 s)

end Sys2Proof.Machine
end

section
/-! PROOFS. The exceptions family (60_exceptions.md). The table of R149 is named once (`Cause.commands`),
and each command's outcome is read off its checks: a check raises a cause whose row lists the command,
and what stands after the checks leaves STATUS alone. Then fault entry and the faulted state. -/

namespace Sys2Proof.Machine

/-! ## The commands that raise a cause (R149, R150) -/

/-- The commands each row of R149 lists. The decoder raises ILLEGAL_COMMAND, no command does (R150). -/
def Cause.commands : Cause → List String
  | .none | .illegalCommand => []
  | .overflow => ["ADDU", "ADDS", "SUBU", "SUBS", "MULU", "MULS", "NEG", "DIVS"]
  | .divByZero => ["DIVU", "DIVS"]
  | .unsupported => ["DIVFW"]
  | .badRadix => ["PARSEU", "PARSES", "FMTU", "FMTS"]
  | .badBitIndex => ["LDBIT"]
  | .negativeToUnsigned => ["LDUS"]
  | .indexRange => ["WORD", "TSETLEN"]

/-- The outcome `r` of `i` from `s` leaves STATUS alone, or holds a cause whose row lists `i`. -/
def RaisesOnlyListed (i : Instr) (s : State) (r : Result) : Prop :=
  ∀ t, r = .next t → t.status = s.status ∨ i.mnemonic ∈ t.status.cause.commands

section
variable {i : Instr} {s u : State} {c : Cause} {f : Fault} {r r' : Result}

theorem raisesOnlyListed_next (hu : u.status = s.status) : RaisesOnlyListed i s (.next u) := by
  rintro _ ⟨⟩
  exact .inl hu

theorem raisesOnlyListed_raiseFault (hc : i.mnemonic ∈ c.commands) :
    RaisesOnlyListed i s (raiseFault c s) := by
  rintro _ ⟨⟩
  exact .inr hc

theorem raisesOnlyListed_fault : RaisesOnlyListed i s (.fault f) := nofun

theorem RaisesOnlyListed.ite {p : Prop} [Decidable p] (hr : RaisesOnlyListed i s r)
    (hr' : RaisesOnlyListed i s r') : RaisesOnlyListed i s (if p then r else r') := by
  split
  · exact hr
  · exact hr'

/-- A check that raises a cause which lists the command. -/
theorem RaisesOnlyListed.check {p : Prop} [Decidable p] (hr : RaisesOnlyListed i s r)
    (hc : i.mnemonic ∈ c.commands) : RaisesOnlyListed i s (if p then raiseFault c s else r) :=
  (raisesOnlyListed_raiseFault hc).ite hr

end

/-- The cases group the commands by their checks: one, two, none but a choice between results, none. -/
theorem exec_raisesOnlyListed (i : Instr) (s : State) : RaisesOnlyListed i s (exec i s) := by
  cases i with
  | addu | adds | subu | subs | mulu | muls | neg | divu | ldus | ldbit | word | tsetlen | fmtu
  | fmts =>
    exact (raisesOnlyListed_next (by simp)).check (by simp [Instr.mnemonic, Cause.commands])
  | divs =>
    exact ((raisesOnlyListed_next (by simp)).check (by simp [Instr.mnemonic, Cause.commands])).check
      (by simp [Instr.mnemonic, Cause.commands])
  | parseu | parses =>
    refine (raisesOnlyListed_fault.ite ?_).check (by simp [Instr.mnemonic, Cause.commands])
    split <;> exact raisesOnlyListed_next (by simp)
  | divfw => exact raisesOnlyListed_raiseFault (by simp [Instr.mnemonic, Cause.commands])
  | divuo | divso | cvt =>
    exact (raisesOnlyListed_next (by simp)).ite (raisesOnlyListed_next (by simp))
  | _ => exact raisesOnlyListed_next (by simp)

/-! ## Fault entry (R151) and the faulted state (R152) -/

/-- Fault entry with the input consumed, written out. -/
theorem consume_enterFault {s : State} {c : Command} {rest : List Input}
    (hp : s.port = .command c :: rest) (cause : Cause) :
    (s.enterFault cause).consume =
      { s with status := { faulted := true, cause := cause, fcmd := c.word }, port := rest } := by
  simp [State.consume, State.enterFault, cmdWord_of_port hp, hp]

/-- A faulted block consumes the command presented, if there is one, and does nothing else. -/
theorem step_of_faulted_commands {s : State} (hf : s.status.faulted = true)
    (hp : ∀ e ∈ s.port, ∃ c, e = Input.command c) : step s = .next s.consume := by
  cases hport : s.port with
  | nil =>
    have hidle : s.consume = s := by
      rw [State.consume, hport, List.tail_nil, ← hport]
    rw [hidle, step_of_no_input hport]
  | cons e rest =>
    obtain ⟨c, rfl⟩ := hp e (by simp [hport])
    exact step_of_faulted hport hf

theorem run_succ_of_step (M : Host.Core) {s u : M.State} (h : M.step s = .next u) (k : Nat) :
    M.run (k + 1) s = M.run k u := by
  rw [Host.Core.run, h]

/-! ## The obligations -/

/-- Settles O9, by induction on the number of steps: each consumes one command and leaves the block
faulted. -/
theorem faultedBlockDiscardsEveryCommand : Obligations.FaultedBlockDiscardsEveryCommand := by
  intro k
  induction k with
  | zero => exact fun s _ _ => rfl
  | succ k ih =>
    intro s hf hp
    calc Sys2Proof.core.run (k + 1) s
        = Sys2Proof.core.run k s.consume :=
          run_succ_of_step Sys2Proof.core (step_of_faulted_commands hf hp) k
      _ = .next { s.consume with port := s.consume.port.drop k } :=
          ih s.consume hf fun e he => hp e (List.mem_of_mem_tail he)
      _ = .next { s with port := s.port.drop (k + 1) } := by simp [State.consume]

/-- Settles O16: the decoder's fault or the command's is fault entry, and a command that takes none
leaves STATUS alone. -/
theorem faultEntryWritesOnlyStatus : Obligations.FaultEntryWritesOnlyStatus := by
  intro s t c rest hp hf h ht
  cases hd : decode c.word with
  | error e =>
    rw [step_of_decode_error hp hf hd] at h
    cases h
    exact ⟨.illegalCommand, by decide, consume_enterFault hp _⟩
  | ok i =>
    rw [step_of_decode_ok hp hf hd] at h
    obtain ⟨u, hu, rfl⟩ := andConsume_eq_next.mp h
    obtain ⟨cause, hc, rfl⟩ | hs := exec_next_cases hu
    · exact ⟨cause, hc, consume_enterFault hp _⟩
    · simp [hs, hf] at ht

/-- Settles O17: FAULTED rose, so STATUS changed, and the cause it holds lists the command. -/
theorem causesAreRaisedOnlyByTheirCommands : Obligations.CausesAreRaisedOnlyByTheirCommands := by
  intro i s t hf h ht
  obtain hs | hm := exec_raisesOnlyListed i s t h
  · simp [hs, hf] at ht
  · -- the statement writes R149 out: it agrees with `Cause.commands` row by row
    generalize t.status.cause = c at hm ⊢
    cases c <;> exact hm

/-- Settles O12: the step's case for an empty port. -/
theorem idleBlockKeepsAllState : Obligations.IdleBlockKeepsAllState :=
  fun _ hp => step_of_no_input hp

end Sys2Proof.Machine
end

section
/-! PROOFS. The reset and hazards family (70_reset_and_hazards.md). What each row of R159's table reads
is said once, for every NATIVE_WIDTH, draw and inputs to come; the reset state and the state after an
asserted reset are two of these. -/

namespace Sys2Proof.Machine

/-! ## The rows of R159's table -/

section
variable (nw : NativeWidth) (draw : Nat) (port : List Input)

@[simp] theorem resetWith_reg (r : Reg) : (State.resetWith nw draw port).reg r = 0#128 := by
  by_cases h : r = 0
  · rw [h, reg_zero]
  · rw [reg_of_ne _ r h]
    exact Vector.getElem_replicate _

@[simp] theorem resetWith_flags :
    (State.resetWith nw draw port).flags = { o := false, lt := false, eq := false, a := false } := rfl

@[simp] theorem resetWith_status :
    (State.resetWith nw draw port).status = { faulted := false, cause := .none, fcmd := 0#32 } := rfl

@[simp] theorem resetWith_dataOut : (State.resetWith nw draw port).dataOut = 0#64 := rfl

@[simp] theorem resetWith_tlen : (State.resetWith nw draw port).tlen = 0#9 := rfl

@[simp] theorem resetWith_read? (a : Nat) :
    Memory.read? (State.resetWith nw draw port).txt a = none := rfl

/-- No byte has been written since reset, so each reads as the free draw (R38). -/
@[simp] theorem resetWith_readTxt (a : Nat) :
    (State.resetWith nw draw port).readTxt a = Config.freeTxtByte draw a := rfl

@[simp] theorem resetWith_port : (State.resetWith nw draw port).port = port := rfl

@[simp] theorem resetWith_nativeWidth : (State.resetWith nw draw port).nativeWidth = nw := rfl

end

/-- R30's reset value, as the 8-bit register the host reads. -/
theorem toBits_of_no_flag :
    Flags.toBits { o := false, lt := false, eq := false, a := false } = 0#8 := by decide

/-- R31's reset value, as the 64-bit register the host reads. -/
theorem toBits_of_no_fault :
    Status.toBits { faulted := false, cause := .none, fcmd := 0#32 } = 0#64 := by decide

/-! ## The obligations -/

/-- Settles O10: the step for an asserted reset answers a reset state with the input consumed, and
consuming it writes none of the table's rows. -/
theorem assertedResetResetsEveryPiece : Obligations.AssertedResetResetsEveryPiece := by
  intro s rest hp
  refine ⟨s.assertReset.consume, step_of_reset hp, ?_⟩
  rw [State.assertReset]
  refine ⟨by simp, ?flags, ?status, by simp, by simp [State.faultOut], by simp, by simp, by simp,
    by simp, by simp [hp], by simp⟩
  case flags => rw [consume_flags, resetWith_flags, toBits_of_no_flag]
  case status => rw [consume_status, resetWith_status, toBits_of_no_fault]

/-- Settles O11, row by row of the table. -/
theorem resetStateHoldsTheResetValues : Obligations.ResetStateHoldsTheResetValues :=
  ⟨resetWith_reg _ _ _, toBits_of_no_flag, toBits_of_no_fault, rfl, resetWith_dataOut _ _ _,
    resetWith_tlen _ _ _, resetWith_readTxt _ _ _⟩

/-- Settles O14: the reset state is one of R159's states, each of which meets the invariant. -/
theorem resetStateMeetsTheInvariant : Obligations.ResetStateMeetsTheInvariant :=
  resetWith_inv _ _ _

end Sys2Proof.Machine
end
